-- ==== Sys2Proof/Word.lean ====
section
/-! DEFINITION. The word types of the block: bytes, u16 and u32 registers (10_state.md R11, 00_scope.md section 6). -/

namespace Sys2Proof

/-- One byte; also a `u8` operand or register field. -/
abbrev Byte := BitVec 8

/-- A `u16` register: SCORE and TICK_MS (10_state.md R19, R20). -/
abbrev Half := BitVec 16

/-- A `u32` register or a 32-bit operand: LAST_TICK, the Clock, the value of `drawNumber`. -/
abbrev Word := BitVec 32

end Sys2Proof
end

