-- ==== Sys2Proof/Syntax.lean ====
section
/-! DEFINITION. The 22 operations of the block with typed operands, in the operand order of the call syntax
(30_encoding.md R63, R72). -/

namespace Sys2Proof

/-- The font selector (10_state.md R26): code 0 is Compact, code 1 is Standard. -/
inductive Font where
  | compact
  | standard
deriving DecidableEq, Repr

/-- One constructor per row of spec/opcode_table.json. Coordinates, sizes, pages, columns and key codes are unsigned
bytes (30_encoding.md R61); `value` is a 32-bit two's-complement integer (R69). -/
inductive Instr where
  /-- `0x00 clearBuffer()`, R80. -/
  | clearBuffer
  /-- `0x01 setPixel(x,y,on)`, R81. -/
  | setPixel (x y : Byte) (on : Bool)
  /-- `0x02 getPixel(x,y)`, R82. -/
  | getPixel (x y : Byte)
  /-- `0x03 drawHLine(x0,x1,y)`, R83. -/
  | drawHLine (x0 x1 y : Byte)
  /-- `0x04 drawVLine(x,y0,y1)`, R84. -/
  | drawVLine (x y0 y1 : Byte)
  /-- `0x05 drawLine(x0,y0,x1,y1)`, R85. -/
  | drawLine (x0 y0 x1 y1 : Byte)
  /-- `0x06 drawRect(x,y,w,h)`, R86. -/
  | drawRect (x y w h : Byte)
  /-- `0x07 fillRect(x,y,w,h)`, R87. -/
  | fillRect (x y w h : Byte)
  /-- `0x08 drawCircle(cx,cy,r)`, R100. -/
  | drawCircle (cx cy r : Byte)
  /-- `0x09 drawTriangle(x0,y0,x1,y1,x2,y2)`, R101. -/
  | drawTriangle (x0 y0 x1 y1 x2 y2 : Byte)
  /-- `0x0A fillTriangle(x0,y0,x1,y1,x2,y2)`, R102. -/
  | fillTriangle (x0 y0 x1 y1 x2 y2 : Byte)
  /-- `0x10 drawChar(page,col,char,font,spacing)`, R112. -/
  | drawChar (page col char : Byte) (font : Font) (spacing : Byte)
  /-- `0x11 drawText(page,col,text,font)`, R113. -/
  | drawText (page col : Byte) (text : List Byte) (font : Font)
  /-- `0x12 drawNumber(page,col,value,font)`, R114. -/
  | drawNumber (page col : Byte) (value : Word) (font : Font)
  /-- `0x18 drawBitmap(x,y,bitmap,w,h)`, R125. -/
  | drawBitmap (x y : Byte) (bitmap : List Byte) (w h : Byte)
  /-- `0x20 gameReset()`, R132. -/
  | gameReset
  /-- `0x21 pollInput(key)`, R134. -/
  | pollInput (key : Byte)
  /-- `0x22 tick()`, R140. -/
  | tick
  /-- `0x23 render()`, R150. -/
  | render
  /-- `0x24 flush()`, R164. -/
  | flush
  /-- `0x25 placeFood()`, R133. -/
  | placeFood
  /-- `0x26 loopIteration()`, R160. -/
  | loopIteration
deriving DecidableEq, Repr

end Sys2Proof
end

