-- ==== Sys2Proof/WellFormed.lean ====
section
/-! DEFINITION. Which instruction terms have an encoding. Every operand but two is bounded by its type; the two checks
are the text length (30_encoding.md R67) and the bitmap length (R68). -/

namespace Sys2Proof

/-- `⌈h/8⌉`, the number of source pages of a bitmap of height `h` (20_memory.md R46). -/
def bitmapPages (h : Byte) : Nat := (h.toNat + 7) / 8

/-- `w·⌈h/8⌉`, the number of bytes of a bitmap operand (30_encoding.md R68). -/
def bitmapBytes (w h : Byte) : Nat := w.toNat * bitmapPages h

/-- The check: a text of at most 255 bytes (its count is one byte, R67), a bitmap of exactly `w·⌈h/8⌉` bytes (R68). -/
def Instr.wellFormed : Instr → Bool
  | .drawText _ _ text _ => decide (text.length ≤ 255)
  | .drawBitmap _ _ bitmap w h => decide (bitmap.length = bitmapBytes w h)
  | _ => true

/-- An instruction term that an operation stream can carry. -/
abbrev Instr.WellFormed (i : Instr) : Prop := i.wellFormed = true

end Sys2Proof
end

