-- ==== Sys2Proof/Decode.lean ====
section
/-! DEFINITION. The operation stream's encoding (30_encoding.md R60 to R71): the decoder, total on every byte sequence and
refusing by name, the encoder, the length of an operation, and the table's numbering of an instruction's bits. -/

namespace Sys2Proof

/-- Why a byte sequence starts with no operation (R70, R71, U11). -/
inductive DecodeError where
  /-- The opcode byte is not in the opcode map (R70). -/
  | reservedOpcode
  /-- The font byte is neither 0 nor 1 (R70). -/
  | reservedFont
  /-- The stream ends inside the operation, or is empty (R71). -/
  | truncated
deriving DecidableEq, Repr

/-- The code of a font (R65). -/
def Font.code : Font → Byte
  | .compact => 0
  | .standard => 1

/-- The font a byte selects; values 2..255 are reserved (R65). -/
def fontOfCode (b : Byte) : Option Font :=
  if b = 0 then some .compact else if b = 1 then some .standard else none

/-- The 32-bit value whose bytes are given least significant first: `v3 ++ v2 ++ v1 ++ v0` (R62). -/
def wordOfBytes (v0 v1 v2 v3 : Byte) : Word := v3 ++ v2 ++ v1 ++ v0

/-- Byte `k` of a 32-bit value, byte 0 the least significant. -/
def byteOfWord (v : Word) (k : Nat) : Byte := v.extractLsb' (8 * k) 8

/-- What `font` selects, with the instruction built from it, or the refusal of a reserved font byte. -/
def withFont (b : Byte) (rest : List Byte) (k : Font → Instr) : Except DecodeError (Instr × List Byte) :=
  match fontOfCode b with
  | some f => .ok (k f, rest)
  | none => .error .reservedFont

/-- Reads one operation from the head of a byte sequence and gives it with the bytes that follow it (R62, R63). An
operand that the sequence ends before is reported as `truncated` even where a font byte is reserved too (log 19). -/
def decode : List Byte → Except DecodeError (Instr × List Byte)
  | [] => .error .truncated
  | op :: r =>
    match op.toNat with
    | 0x00 => .ok (.clearBuffer, r)
    | 0x01 => match r with
      | x :: y :: on :: r => .ok (.setPixel x y (on != 0), r)
      | _ => .error .truncated
    | 0x02 => match r with
      | x :: y :: r => .ok (.getPixel x y, r)
      | _ => .error .truncated
    | 0x03 => match r with
      | x0 :: x1 :: y :: r => .ok (.drawHLine x0 x1 y, r)
      | _ => .error .truncated
    | 0x04 => match r with
      | x :: y0 :: y1 :: r => .ok (.drawVLine x y0 y1, r)
      | _ => .error .truncated
    | 0x05 => match r with
      | x0 :: y0 :: x1 :: y1 :: r => .ok (.drawLine x0 y0 x1 y1, r)
      | _ => .error .truncated
    | 0x06 => match r with
      | x :: y :: w :: h :: r => .ok (.drawRect x y w h, r)
      | _ => .error .truncated
    | 0x07 => match r with
      | x :: y :: w :: h :: r => .ok (.fillRect x y w h, r)
      | _ => .error .truncated
    | 0x08 => match r with
      | cx :: cy :: rad :: r => .ok (.drawCircle cx cy rad, r)
      | _ => .error .truncated
    | 0x09 => match r with
      | x0 :: y0 :: x1 :: y1 :: x2 :: y2 :: r => .ok (.drawTriangle x0 y0 x1 y1 x2 y2, r)
      | _ => .error .truncated
    | 0x0A => match r with
      | x0 :: y0 :: x1 :: y1 :: x2 :: y2 :: r => .ok (.fillTriangle x0 y0 x1 y1 x2 y2, r)
      | _ => .error .truncated
    | 0x10 => match r with
      | page :: col :: char :: font :: spacing :: r =>
        withFont font r fun f => .drawChar page col char f spacing
      | _ => .error .truncated
    | 0x11 => match r with
      | page :: col :: font :: n :: r =>
        if r.length < n.toNat then .error .truncated
        else withFont font (r.drop n.toNat) fun f => .drawText page col (r.take n.toNat) f
      | _ => .error .truncated
    | 0x12 => match r with
      | page :: col :: font :: v0 :: v1 :: v2 :: v3 :: r =>
        withFont font r fun f => .drawNumber page col (wordOfBytes v0 v1 v2 v3) f
      | _ => .error .truncated
    | 0x18 => match r with
      | x :: y :: w :: h :: r =>
        if r.length < bitmapBytes w h then .error .truncated
        else .ok (.drawBitmap x y (r.take (bitmapBytes w h)) w h, r.drop (bitmapBytes w h))
      | _ => .error .truncated
    | 0x20 => .ok (.gameReset, r)
    | 0x21 => match r with
      | key :: r => .ok (.pollInput key, r)
      | _ => .error .truncated
    | 0x22 => .ok (.tick, r)
    | 0x23 => .ok (.render, r)
    | 0x24 => .ok (.flush, r)
    | 0x25 => .ok (.placeFood, r)
    | 0x26 => .ok (.loopIteration, r)
    | _ => .error .reservedOpcode

/-- The bytes of an instruction, written from the formats of R62. The boolean operand is written as 0 or 1 (R64). -/
def encode : Instr → List Byte
  | .clearBuffer => [0x00]
  | .setPixel x y on => [0x01, x, y, if on then 1 else 0]
  | .getPixel x y => [0x02, x, y]
  | .drawHLine x0 x1 y => [0x03, x0, x1, y]
  | .drawVLine x y0 y1 => [0x04, x, y0, y1]
  | .drawLine x0 y0 x1 y1 => [0x05, x0, y0, x1, y1]
  | .drawRect x y w h => [0x06, x, y, w, h]
  | .fillRect x y w h => [0x07, x, y, w, h]
  | .drawCircle cx cy r => [0x08, cx, cy, r]
  | .drawTriangle x0 y0 x1 y1 x2 y2 => [0x09, x0, y0, x1, y1, x2, y2]
  | .fillTriangle x0 y0 x1 y1 x2 y2 => [0x0A, x0, y0, x1, y1, x2, y2]
  | .drawChar page col char font spacing => [0x10, page, col, char, font.code, spacing]
  | .drawText page col text font => [0x11, page, col, font.code, BitVec.ofNat 8 text.length] ++ text
  | .drawNumber page col v font =>
    [0x12, page, col, font.code, byteOfWord v 0, byteOfWord v 1, byteOfWord v 2, byteOfWord v 3]
  | .drawBitmap x y bitmap w h => [0x18, x, y, w, h] ++ bitmap
  | .gameReset => [0x20]
  | .pollInput key => [0x21, key]
  | .tick => [0x22]
  | .render => [0x23]
  | .flush => [0x24]
  | .placeFood => [0x25]
  | .loopIteration => [0x26]

/-- The length in bytes of the operation at the head of a byte sequence, decided by the opcode byte alone but for
`drawText` (byte 4) and `drawBitmap` (bytes 3 and 4); none for a reserved opcode or where the deciding byte is missing
(R71). -/
def opLength : List Byte → Option Nat
  | [] => none
  | op :: r =>
    match op.toNat with
    | 0x00 | 0x20 | 0x22 | 0x23 | 0x24 | 0x25 | 0x26 => some 1
    | 0x21 => some 2
    | 0x02 => some 3
    | 0x01 | 0x03 | 0x04 | 0x08 => some 4
    | 0x05 | 0x06 | 0x07 => some 5
    | 0x10 => some 6
    | 0x09 | 0x0A => some 7
    | 0x12 => some 8
    | 0x11 => match r with
      | _ :: _ :: _ :: n :: _ => some (5 + n.toNat)
      | _ => none
    | 0x18 => match r with
      | _ :: _ :: w :: h :: _ => some (5 + bitmapBytes w h)
      | _ => none
    | _ => none

/-- The lowest `n` bytes of `w`, least significant first: how spec/opcode_table.json numbers an instruction's bits. -/
def bytesOfNat : Nat → Nat → List Byte
  | 0, _ => []
  | n + 1, w => BitVec.ofNat 8 w :: bytesOfNat n (w / 256)

/-- The bytes of the one instruction whose lowest `nbits` bits are `w` and whose further bits are 0: the bytes of `w`,
followed by zeros up to the instruction's own length (R71), or cut there; at least the eight bytes of the longest
fixed format decide that length. -/
def tableBytes (nbits w : Nat) : List Byte :=
  let bs := bytesOfNat ((nbits + 7) / 8) (w % 2 ^ nbits)
  match opLength (bs ++ List.replicate 8 0) with
  | some n => (bs ++ List.replicate (n - bs.length) 0).take n
  | none => bs

/-- The instruction the decoder reads from the instruction whose bits are `w` in the table's numbering. -/
def decodeTableWord (nbits w : Nat) : Option Instr :=
  match decode (tableBytes nbits w) with
  | .ok (i, _) => some i
  | .error _ => none

end Sys2Proof
end

