-- ==== Sys2Proof/Config.lean ====
section
/-! DEFINITION. What is fixed for one block: the constants of 00_scope.md section 5, the open parameters, and the free
values (opaque constants without a body, of which nothing can be proved but their type). -/

namespace Sys2Proof.Config

/-- Width of the PixelBuffer in pixels, `W` (R3). -/
def W : Nat := 132
/-- Height of the PixelBuffer in pixels, `H` (R3). -/
def H : Nat := 48
/-- Number of pages, `PAGES = H/8` (R3). -/
def PAGES : Nat := H / 8
/-- Edge of a grid cell in pixels, `CELL` (R4, D2). -/
def CELL : Nat := 4
/-- Height of the HUD band in pixel rows, `HUD` (R4, D1). -/
def HUD : Nat := 8
/-- Columns of the game grid, `COLS = ⌊W/CELL⌋ = 33` (R4). -/
def COLS : Nat := W / CELL
/-- Rows of the game grid, `ROWS = ⌊(H-HUD)/CELL⌋ = 10` (R4). -/
def ROWS : Nat := (H - HUD) / CELL
/-- What one food takes off the tick interval, in milliseconds (R5). -/
def TICK_STEP : Nat := 5
/-- The shortest tick interval, in milliseconds (R5). -/
def TICK_FLOOR : Nat := 80
/-- How many random attempts food placement makes (R6). -/
def FOOD_TRIES : Nat := 100

/-- Size of the PixelBuffer in bytes, `PAGES·W = 792` (R28, R40). -/
def FB_BYTES : Nat := PAGES * W

theorem W_eq : W = 132 := rfl
theorem H_eq : H = 48 := rfl
theorem PAGES_eq : PAGES = 6 := rfl
theorem CELL_eq : CELL = 4 := rfl
theorem HUD_eq : HUD = 8 := rfl
theorem COLS_eq : COLS = 33 := rfl
theorem ROWS_eq : ROWS = 10 := rfl
theorem TICK_STEP_eq : TICK_STEP = 5 := rfl
theorem TICK_FLOOR_eq : TICK_FLOOR = 80 := rfl
theorem FOOD_TRIES_eq : FOOD_TRIES = 100 := rfl
theorem FB_BYTES_eq : FB_BYTES = 792 := rfl

/-- A cell of the 33 × 10 grid as the Rnd port answers it: column, then row (60_exceptions.md R181). -/
abbrev GridCell := Fin 33 × Fin 10

/-! ### Open parameters (92_eei_decisions.md D3, D4, D17, D28, D29; log 6 and 7) -/

/-- By how much TICK_BASE exceeds 80; free (D3). -/
opaque tickBaseExtra : Fin 65456

/-- By how much SNAKE_CAP exceeds 3; free (D4). -/
opaque snakeCapExtra : Fin 328

/-- `TICK_BASE`, the base tick interval in milliseconds, somewhere in 80..65535 (R5, D3). -/
def tickBase : Half := BitVec.ofNat 16 (TICK_FLOOR + tickBaseExtra.val)

/-- `SNAKE_CAP`, the capacity of the snake body store, somewhere in 3..330 (R7, D4). -/
def snakeCap : Nat := 3 + snakeCapExtra.val

/-- `COMPACT_GLYPH[32 + i]`, column `j` (42_text.md R110). -/
opaque compactGlyph : Fin 95 → Fin 3 → Byte

/-- `COMPACT_FALLBACK`, column `j`: "a fixed hollow-box" whose bytes no source gives (R110). -/
opaque compactFallback : Fin 3 → Byte

/-- `STANDARD_GLYPH[c]`, column `j` (R110). -/
opaque standardGlyph : Byte → Fin 5 → Byte

/-- `ADDR_CMDS(p)`, the command bytes that select page `p`, column 0 (45_loop_flush.md R164, D28). -/
opaque addrCmds : Fin 6 → List Byte

/-- `SERIAL_MSB_FIRST`, the bit order on the wire; read by no rule (R166, D29). -/
opaque serialMsbFirst : Bool

/-! ### Free values (93_implementation_defined.md U3, U4, U8) -/

/-- What a PixelBuffer byte holds that nothing has written since power-on (U8, D32; log 8). -/
opaque powerOnByte : Nat → Byte

/-- The answer to the `n`-th `KeyInput.read()`: any code of the 3-bit field (60_exceptions.md R179; log 4). -/
opaque keyRead : Nat → BitVec 3

/-- The answer to the `n`-th `Clock.read()` (R180; log 4). -/
opaque clockRead : Nat → Word

/-- The answer to the `n`-th `Rnd.cell()` (R181; log 4). -/
opaque rndCell : Nat → GridCell

/-- The cell FOOD takes when `placeFood` finds the grid full, after `n` cells have been drawn (U3, D23; log 10). -/
opaque fullGridFood : Nat → GridCell

end Sys2Proof.Config
end

