-- ==== Sys2Proof/Machine/Grid.lean ====
section
/-! DEFINITION. The plain data of the game (grid points, directions, the snake body), an input port of the block, and the
choice of a food cell. It stands before State because the reset state's FOOD is chosen by the same rule (R32, R133). -/

namespace Sys2Proof.Machine

/-- A grid point, stored as two u8 fields, `x` then `y` (10_state.md R15). -/
structure Point where
  x : Byte
  y : Byte
deriving DecidableEq, Repr

/-- A direction, in the order of its codes 0..3: `(1,0)`, `(-1,0)`, `(0,1)`, `(0,-1)` (10_state.md R17). -/
inductive Direction where
  | right
  | left
  | down
  | up
deriving DecidableEq, Repr

/-- The snake body `SEG[0..LEN-1]`: the head `SEG[0]` and the other live segments in order (10_state.md R15). Slots at and
beyond LEN have no meaning and are not stored (U10). -/
structure Snake where
  head : Point
  tail : List Point
deriving DecidableEq, Repr

/-- An input port: the answers the outside has already placed, and how many answers the block has taken. -/
structure Port (α : Type) where
  /-- Answers to come, the next one first. -/
  pending : List α
  /-- How many calls have been answered; the model's own count, which selects the free value answered once `pending` is
  used up (log 4). -/
  taken : Nat
deriving DecidableEq, Repr

/-- One call of a port: the first pending answer, or the free value of this call where none is pending (R177, U4). -/
def Port.next {α : Type} (free : Nat → α) (p : Port α) : α × Port α :=
  match p.pending with
  | a :: rest => (a, ⟨rest, p.taken + 1⟩)
  | [] => (free p.taken, ⟨[], p.taken + 1⟩)

/-- A port at power-on: nothing pending, no call made. -/
def Port.fresh {α : Type} : Port α := ⟨[], 0⟩

/-- The 2-bit code of a direction (10_state.md R17). -/
def Direction.code : Direction → BitVec 2
  | .right => 0
  | .left => 1
  | .down => 2
  | .up => 3

/-- The x component of a direction's unit vector. -/
def Direction.dx : Direction → Int
  | .right => 1
  | .left => -1
  | .down => 0
  | .up => 0

/-- The y component of a direction's unit vector. -/
def Direction.dy : Direction → Int
  | .right => 0
  | .left => 0
  | .down => 1
  | .up => -1

/-- The exact reverse `-d` of a direction (00_scope.md section 6). -/
def Direction.reverse : Direction → Direction
  | .right => .left
  | .left => .right
  | .down => .up
  | .up => .down

/-- The live segments, head first. -/
def Snake.cells (b : Snake) : List Point := b.head :: b.tail

/-- `LEN` (10_state.md R14): the number of live segments. -/
def Snake.len (b : Snake) : Nat := b.cells.length

/-- `SEG[LEN-1]`, the tail segment. -/
def Snake.last (b : Snake) : Point := b.tail.getLastD b.head

/-- The point with the given column and row. -/
def pointOf (x y : Nat) : Point := ⟨BitVec.ofNat 8 x, BitVec.ofNat 8 y⟩

/-- The point of a cell that the Rnd port answers. -/
def pointOfCell (c : Config.GridCell) : Point := pointOf c.1.val c.2.val

/-- `OCC(c)` of 44_game.md R131: `c` is one of the live segments `body`. -/
def occ (body : List Point) (c : Point) : Bool := decide (c ∈ body)

/-- All grid cells in row-major order, rows outermost (R133, D34). -/
def gridCells : List Point :=
  (List.range Config.ROWS).flatMap fun y => (List.range Config.COLS).map fun x => pointOf x y

/-- The first free cell in row-major order, if any (R133). -/
def firstFree (body : List Point) : Option Point := gridCells.find? fun c => !occ body c

/-- Draws cells until one is free, at most the given number of times (R133, R6): the free cell drawn, if any, and the
port afterwards. -/
def drawFree (body : List Point) : Nat → Port Config.GridCell → Option Point × Port Config.GridCell
  | 0, p => (none, p)
  | n + 1, p =>
    let r := p.next Config.rndCell
    if occ body (pointOfCell r.1) then drawFree body n r.2 else (some (pointOfCell r.1), r.2)

/-- The cell `placeFood` chooses for a body, and the Rnd port afterwards (R133): the first free cell drawn, else the
first free cell of the scan, else a free value (U3; log 10). -/
def chooseFood (body : List Point) (p : Port Config.GridCell) : Point × Port Config.GridCell :=
  let r := drawFree body Config.FOOD_TRIES p
  match r.1 with
  | some c => (c, r.2)
  | none =>
    match firstFree body with
    | some c => (c, r.2)
    | none => (pointOfCell (Config.fullGridFood r.2.taken), r.2)

/-- The body a game reset puts in place: head on the centre cell, two segments to its left (R132, D18). -/
def startSnake : Snake :=
  ⟨pointOf (Config.COLS / 2) (Config.ROWS / 2),
    [pointOf (Config.COLS / 2 - 1) (Config.ROWS / 2), pointOf (Config.COLS / 2 - 2) (Config.ROWS / 2)]⟩

end Sys2Proof.Machine
end

