-- ==== Sys2Proof/Machine/State.lean ====
section
/-! DEFINITION. The machine's state as plain data (10_state.md R11, R28), its faults and refusals, and the state right after
the power-on sequence (R32, R190). -/

namespace Sys2Proof.Machine

/-- `PHASE` (10_state.md R12): 0 INPUT, 1 STEP, 2 RENDER, 3 FLUSH. -/
inductive Phase where
  | input
  | step
  | render
  | flush
deriving DecidableEq, Repr

/-- `STATE` (10_state.md R13): 0 Running, 1 Paused, 2 GameOver. Code 3 is produced by no rule and is not in the type (U9). -/
inductive GameState where
  | running
  | paused
  | gameOver
deriving DecidableEq, Repr

/-- One call to the Transport (60_exceptions.md R178). -/
inductive TransportCall where
  | sendCommand (b : Byte)
  | sendData (b : Byte)
  | sendDataBlock (bytes : List Byte)
deriving DecidableEq, Repr

/-- The PixelBuffer: the bytes written since power-on, addresses strictly rising. An unlisted address has not been written
and has no byte of its own (20_memory.md R41; log 8). -/
abbrev Memory := List Host.Cell

/-- Everything the spec gives the machine, its inputs and its output trace. -/
structure State where
  /-- `PHASE`, R12. -/
  phase : Phase
  /-- `STATE`, R13. -/
  gameState : GameState
  /-- `SEG[0..LEN-1]` and, as its number of entries, `LEN`: R14, R15. -/
  snake : Snake
  /-- `FOOD`, R16. -/
  food : Point
  /-- `APPLIED`, R17. -/
  applied : Direction
  /-- `INTENT`, R18. -/
  intent : Direction
  /-- `SCORE`, R19. -/
  score : Half
  /-- `TICK_MS`, R20. -/
  tickMs : Half
  /-- `OK_HELD`, R21. -/
  okHeld : Bool
  /-- `LAST_TICK`, R22. -/
  lastTick : Word
  /-- `RESULT`, R23. -/
  result : Bool
  /-- The PixelBuffer, R28. -/
  fb : Memory
  /-- The Transport calls made so far, oldest first: the block's output (R2, R178; log 11). -/
  transport : List TransportCall
  /-- The bytes of the operation stream not yet consumed (R60; log 1). -/
  stream : List Byte
  /-- KeyInput (R179). -/
  keyPort : Port (BitVec 3)
  /-- Clock (R180). -/
  clockPort : Port Word
  /-- Rnd (R181). -/
  rndPort : Port Config.GridCell
deriving DecidableEq, Repr

/-- The block has no faults: the set of synchronous exceptions is empty (60_exceptions.md R170, U9's table: `fault` is used
nowhere). The type has no constructor, so no step can end in one. -/
inductive Fault where
deriving DecidableEq, Repr

/-- Why an instruction or a stream has no meaning. -/
inductive Refusal where
  /-- Raised by `exec`'s arm of an instruction without a meaning yet; safe. No arm raises it. -/
  | notModelled (mnemonic : String)
  /-- Raised by `step` where the stream's next byte is a reserved opcode (30_encoding.md R70, U11); safe. -/
  | reservedOpcode
  /-- Raised by `step` where the next operation's font byte is reserved (30_encoding.md R70, U11); safe. -/
  | reservedFont
  /-- Raised by `step` where the stream ends inside an operation (30_encoding.md R71, U11); safe. -/
  | truncatedStream
  /-- Raised by `tick`, and by the STEP phase that calls it, where an eating tick meets SCORE = 65535: "the model gives an
  eating tick no meaning when `SCORE = 65535`" (10_state.md R19, U7); safe. -/
  | scoreOverflow
deriving DecidableEq, Repr

/-- The machine right after the power-on sequence (10_state.md R32, 70_reset_and_hazards.md R190). FOOD comes from the Rnd
port's free draws and LAST_TICK is the Clock's free answer (log 5); no PixelBuffer byte has been written (log 8). -/
def State.reset : State where
  phase := .input
  gameState := .running
  snake := startSnake
  food := (chooseFood startSnake.cells Port.fresh).1
  applied := .right
  intent := .right
  score := 0
  tickMs := Config.tickBase
  okHeld := false
  lastTick := (Port.fresh.next Config.clockRead).1
  result := false
  fb := []
  transport := []
  stream := []
  keyPort := Port.fresh
  clockPort := (Port.fresh.next Config.clockRead).2
  rndPort := (chooseFood startSnake.cells Port.fresh).2

end Sys2Proof.Machine
end

