-- ==== Sys2Proof/Machine/Operands.lean ====
section
/-! DEFINITION. The operand forms: coordinates, key codes, fonts and their glyphs, and decimal text (30_encoding.md R61 to
R69, 10_state.md R24 to R26, 42_text.md R110, R111, R114). -/

namespace Sys2Proof.Machine

/-- A pixel position on unbounded integers (40_pixel_primitives.md R89). -/
abbrev Pixel := Int × Int

/-- A coordinate or size operand as the unbounded integer it stands for (R61, R89). -/
def coord (b : Byte) : Int := b.toNat

/-- What a key code means to the block (10_state.md R24); every code beyond the six is an "other key" (R66, D37). -/
inductive Key where
  | none
  | up
  | down
  | left
  | right
  | ok
  | other
deriving DecidableEq, Repr

/-- The key of a code: an operand byte of `pollInput` (R66) or the widened answer of KeyInput (R24). -/
def keyOfCode (b : Byte) : Key :=
  match b.toNat with
  | 0 => .none
  | 1 => .up
  | 2 => .down
  | 3 => .left
  | 4 => .right
  | 5 => .ok
  | _ => .other

/-- `DIR(k)` of 10_state.md R25, where `k` is an arrow key. -/
def Key.direction? : Key → Option Direction
  | .up => some .up
  | .down => some .down
  | .left => some .left
  | .right => some .right
  | .none => Option.none
  | .ok => Option.none
  | .other => Option.none

/-- `GW(font)`, the columns of a glyph (42_text.md R111, R8). -/
def glyphWidth : Font → Nat
  | .compact => 3
  | .standard => 5

/-- `PITCH(font)`, the column advance of `drawText` (R111, R8). -/
def pitch : Font → Nat
  | .compact => 4
  | .standard => 6

/-- `GLYPH(font, c)`: the glyph's column bytes, left to right; total in both fonts (R111). -/
def glyph (f : Font) (c : Byte) : List Byte :=
  match f with
  | .compact =>
    if h : 32 ≤ c.toNat ∧ c.toNat ≤ 126 then
      (List.finRange 3).map (Config.compactGlyph ⟨c.toNat - 32, by omega⟩)
    else (List.finRange 3).map Config.compactFallback
  | .standard => (List.finRange 5).map (Config.standardGlyph c)

/-- The byte of a decimal digit, `0x30 + k` (R114). -/
def digitByte (k : Nat) : Byte := BitVec.ofNat 8 (0x30 + k)

/-- The decimal digits of `m`, most significant first; `fuel` bounds their number. -/
def digitsFuel : Nat → Nat → List Byte
  | 0, m => [digitByte (m % 10)]
  | fuel + 1, m => if m < 10 then [digitByte m] else digitsFuel fuel (m / 10) ++ [digitByte (m % 10)]

/-- `DIGITS(m)` of R114: no leading zeros, "0" for zero. A number has no more digits than its value. -/
def digits (m : Nat) : List Byte := digitsFuel m m

/-- `DEC(v)` of R114, on the mathematical value (U6): '-' (0x2D) and the digits of `|v|`, or the digits of `v`. -/
def dec (v : Int) : List Byte := if v < 0 then 0x2D :: digits v.natAbs else digits v.natAbs

end Sys2Proof.Machine
end

