-- ==== Sys2Proof/Machine/Flags.lean ====
section
/-! DEFINITION. The two one-bit values that play the part of flags: OK_HELD and RESULT (10_state.md R21, R23). -/

namespace Sys2Proof.Machine

/-- The value of OK_HELD after a poll of `k` (44_game.md R135). -/
def okHeldAfter (k : Key) : Bool := decide (k = .ok)

/-- An OK rising edge: the key is Ok and the old OK_HELD is 0 (R135). -/
def okEdge (held : Bool) (k : Key) : Bool := okHeldAfter k && !held

/-- Writes OK_HELD; only polling a key does so (R21). -/
def State.setOkHeld (s : State) (b : Bool) : State := { s with okHeld := b }

/-- Writes RESULT; only `getPixel` does so (R23). -/
def State.setResult (s : State) (b : Bool) : State := { s with result := b }

end Sys2Proof.Machine
end

