-- ==== Sys2Proof/Machine/Ops.lean ====
section
/-! DEFINITION. The named operations over the PixelBuffer and the registers that the instructions share. -/

namespace Sys2Proof.Machine

/-! ### PixelBuffer bytes (20_memory.md R41, R45; 00_scope.md section 6, `MemRead` and `MemWrite`) -/

/-- The byte written last to an address, if any write reached it since power-on. -/
def Memory.lookup : Memory → Nat → Option Byte
  | [], _ => none
  | (k, v) :: m, a => if k = a then some v else Memory.lookup m a

/-- `MemRead(a, 1)`: the byte written last, or the free byte the address held at power-on (U8; log 8). -/
def readByte (m : Memory) (a : Nat) : Byte := (Memory.lookup m a).getD (Config.powerOnByte a)

/-- Puts a byte at its place among rising addresses, in place of the byte listed there before. -/
def Memory.insert : Memory → Nat → Byte → Memory
  | [], a, b => [(a, b)]
  | (k, v) :: m, a, b =>
    if a < k then (a, b) :: (k, v) :: m
    else if a = k then (a, b) :: m
    else (k, v) :: Memory.insert m a b

/-- `MemWrite(a, 1, b)`; outside addresses 0..791 a no-op (R45; log 20). -/
def writeByte (m : Memory) (a : Nat) (b : Byte) : Memory :=
  if a < Config.FB_BYTES then Memory.insert m a b else m

/-- The canonical form: addresses strictly rising and all below 792. -/
def Memory.wf (m : Memory) : Bool :=
  decide (m.Pairwise fun p q => p.1 < q.1) && m.all fun p => decide (p.1 < Config.FB_BYTES)

/-- The linear address `p·W + x` of `FB[p][x]` (R41). -/
def fbAddr (p x : Nat) : Nat := p * Config.W + x

/-- Stores bytes at rising addresses from `a` on. -/
def writeBytes (m : Memory) (a : Nat) : List Byte → Memory
  | [] => m
  | b :: bs => writeBytes (writeByte m a b) (a + 1) bs

/-- `FB[p][x] <- FB[p][x] | v` where page `p` exists (43_bitmap.md R125). -/
def orByte (m : Memory) (p x : Nat) (v : Byte) : Memory :=
  if p < Config.PAGES then writeByte m (fbAddr p x) (readByte m (fbAddr p x) ||| v) else m

/-- Every byte `0x00` (40_pixel_primitives.md R80). -/
def clearedFb : Memory := (List.range Config.FB_BYTES).map fun a => (a, 0)

/-! ### Pixels (20_memory.md R42, 40_pixel_primitives.md R81, R82) -/

/-- The two-sided range test of R81, R89. -/
abbrev InBuffer (x y : Int) : Prop := 0 ≤ x ∧ x < Config.W ∧ 0 ≤ y ∧ y < Config.H

/-- The address of the byte that holds pixel `(x, y)` of the buffer (R42). -/
def pixelAddr (x y : Int) : Nat := fbAddr (y / 8).toNat x.toNat

/-- The bit number of pixel row `y` within its byte (R42). -/
def pixelBit (y : Int) : Nat := (y % 8).toNat

/-- `bit(y mod 8)`: the byte with pixel row `y`'s bit alone. -/
def pixelMask (y : Int) : Byte := 1#8 <<< pixelBit y

/-- `setPixel(x, y, on)` for every integer position (R81). -/
def writePixel (m : Memory) (x y : Int) (on : Bool) : Memory :=
  if InBuffer x y then
    writeByte m (pixelAddr x y)
      (if on then readByte m (pixelAddr x y) ||| pixelMask y else readByte m (pixelAddr x y) &&& ~~~pixelMask y)
  else m

/-- The value `getPixel(x, y)` returns, for every integer position (R82). -/
def readPixel (m : Memory) (x y : Int) : Bool :=
  if InBuffer x y then (readByte m (pixelAddr x y)).getLsbD (pixelBit y) else false

/-- `plot` for each position of a trace, in order (00_scope.md section 6). -/
def plotAll (m : Memory) (ps : List Pixel) : Memory := ps.foldl (fun m p => writePixel m p.1 p.2 true) m

/-- The integers from `lo` to `hi`, ascending; none when `lo > hi`. -/
def intRange (lo hi : Int) : List Int := (List.range (hi - lo + 1).toNat).map fun k : Nat => lo + k

/-! ### Game registers -/

/-- `placeFood()` (44_game.md R133): FOOD and the Rnd port, nothing else. -/
def placeFood (s : State) : State :=
  { s with
    food := (chooseFood s.snake.cells s.rndPort).1
    rndPort := (chooseFood s.snake.cells s.rndPort).2 }

/-- `gameReset()` (R132): the nearest thing to a return from a trap, when it restarts a lost game (60_exceptions.md R174).
`OK_HELD`, `LAST_TICK`, `PHASE`, `RESULT` and the PixelBuffer stay (10_state.md R33). -/
def gameReset (s : State) : State :=
  placeFood { s with
    snake := startSnake
    applied := .right
    intent := .right
    score := 0
    tickMs := Config.tickBase
    gameState := .running }

/-- Entering GameOver (R142, R173): the nearest thing to a trap entry. Nothing is saved and nothing but STATE changes. -/
def enterGameOver (s : State) : State := { s with gameState := .gameOver }

/-- The direction a tick applies: INTENT unless it is the exact reverse of APPLIED (R140 step (a)). -/
def appliedAfter (applied intent : Direction) : Direction :=
  if intent = applied.reverse then applied else intent

/-- The new head: one cell on in direction `d`, each axis modulo its grid dimension (R141). -/
def newHead (h : Point) (d : Direction) : Point :=
  ⟨BitVec.ofInt 8 (((h.x.toNat : Int) + d.dx) % (Config.COLS : Int)),
    BitVec.ofInt 8 (((h.y.toNat : Int) + d.dy) % (Config.ROWS : Int))⟩

/-- The body after a move: every segment one slot toward the tail, the new head in slot 0 (R143). -/
def moveBody (b : Snake) (h : Point) : Snake := ⟨h, b.cells.dropLast⟩

/-- The body after eating: the former tail `t` kept as the new last segment while LEN is below the capacity (R145 (a)). -/
def growBody (cap : Nat) (t : Point) (b : Snake) : Snake :=
  if b.len < cap then ⟨b.head, b.tail ++ [t]⟩ else b

/-- The tick interval after one food (R145 (c)). -/
def fasterTick (ms : Half) : Half := BitVec.ofNat 16 (max (ms.toNat - Config.TICK_STEP) Config.TICK_FLOOR)

/-- The effects of eating in the order of R145, for the former tail `t`: grow, score, speed up, new food. -/
def eatFood (t : Point) (s : State) : State :=
  placeFood { s with
    snake := growBody Config.snakeCap t s.snake
    score := s.score + 1
    tickMs := fasterTick s.tickMs }

/-- Makes the Transport calls `cs`, in order (60_exceptions.md R178). -/
def State.sendAll (s : State) (cs : List TransportCall) : State := { s with transport := s.transport ++ cs }

end Sys2Proof.Machine
end

