-- ==== Sys2Proof/Machine/Bitmap.lean ====
section
/-! DEFINITION. The bitmap blit (43_bitmap.md R125). -/

namespace Sys2Proof.Machine

/-- One source byte `v` ORed in with its low end at row `y`, page `sp` further down, column `dx` (R125). -/
def orSourceByte (m : Memory) (y sp dx : Nat) (v : Byte) : Memory :=
  if dx ≥ Config.W then m
  else if y % 8 = 0 then orByte m (y / 8 + sp) dx v
  else orByte (orByte m (y / 8 + sp) dx (v <<< (y % 8))) (y / 8 + sp + 1) dx (v >>> (8 - y % 8))

/-- The positions of a bitmap's bytes in the order they are drawn: source page `sp`, then column `i` (R125). -/
def bitmapIndices (pages w : Nat) : List (Nat × Nat) :=
  (List.range pages).flatMap fun sp => (List.range w).map fun i => (sp, i)

/-- The effect of `drawBitmap` on the PixelBuffer (R125); byte `sp·w + i` of the operand is source page `sp`, column `i`
(20_memory.md R46). A well-formed operand has every byte the loops ask for (log 18). -/
def drawBitmapFb (m : Memory) (x y : Nat) (bitmap : List Byte) (w pages : Nat) : Memory :=
  (bitmapIndices pages w).foldl
    (fun m p =>
      match bitmap[p.1 * w + p.2]? with
      | some v => orSourceByte m y p.1 (x + p.2) v
      | none => m) m

/-- `drawBitmap(x,y,bitmap,w,h)` (R125). -/
def execDrawBitmap (x y : Byte) (bitmap : List Byte) (w h : Byte) (s : State) :
    Host.Outcome State Fault Refusal :=
  .next { s with fb := drawBitmapFb s.fb x.toNat y.toNat bitmap w.toNat (bitmapPages h) }

end Sys2Proof.Machine
end

