-- ==== Sys2Proof/Machine/Raster.lean ====
section
/-! DEFINITION. Pixel, line and rectangle operations (40_pixel_primitives.md R80 to R89). A drawing operation is the trace of
the points it plots, in order; none can fail and none touches anything but the PixelBuffer, RESULT for getPixel (R88). -/

namespace Sys2Proof.Machine

/-- The points `drawHLine` plots: the requested span clipped to the buffer, either end first (R83). -/
def hlinePoints (x0 x1 y : Int) : List Pixel :=
  if y < 0 ∨ y ≥ Config.H then []
  else (intRange (max (min x0 x1) 0) (min (max x0 x1) (Config.W - 1))).map fun x => (x, y)

/-- The points `drawVLine` plots (R84). -/
def vlinePoints (x y0 y1 : Int) : List Pixel :=
  if x < 0 ∨ x ≥ Config.W then []
  else (intRange (max (min y0 y1) 0) (min (max y0 y1) (Config.H - 1))).map fun y => (x, y)

/-- The loop of `drawLine` (R85) toward `(x1, y1)`; both tests use the same `2·err`, and the Nat bounds the iterations. -/
def lineWalk (x1 y1 dx dy sx sy : Int) : Nat → Int → Int → Int → List Pixel
  | 0, _, _, _ => []
  | n + 1, x, y, err =>
    (x, y) ::
      if x = x1 ∧ y = y1 then []
      else
        lineWalk x1 y1 dx dy sx sy n
          (if 2 * err > -dy then x + sx else x)
          (if 2 * err < dx then y + sy else y)
          (err - (if 2 * err > -dy then dy else 0) + (if 2 * err < dx then dx else 0))

/-- The trace of `drawLine(x0,y0,x1,y1)`, points outside the buffer included; the loop visits `max(dx,dy) + 1` points
(R85, R200). -/
def linePoints (x0 y0 x1 y1 : Int) : List Pixel :=
  lineWalk x1 y1 |x1 - x0| |y1 - y0| (if x0 < x1 then 1 else -1) (if y0 < y1 then 1 else -1)
    ((max |x1 - x0| |y1 - y0|).toNat + 1) x0 y0 (|x1 - x0| - |y1 - y0|)

/-- The points `drawRect` plots: top, bottom, left, right; none for a zero size (R86). -/
def rectPoints (x y w h : Int) : List Pixel :=
  if w = 0 ∨ h = 0 then []
  else
    hlinePoints x (x + w - 1) y ++ hlinePoints x (x + w - 1) (y + h - 1) ++
      vlinePoints x y (y + h - 1) ++ vlinePoints (x + w - 1) y (y + h - 1)

/-- The points `fillRect` plots: none for a zero size or an origin outside the buffer, else the rectangle with its far
corner clamped (R87). -/
def fillRectPoints (x y w h : Int) : List Pixel :=
  if w = 0 ∨ h = 0 then []
  else if ¬ InBuffer x y then []
  else
    (intRange y (min (y + h - 1) (Config.H - 1))).flatMap fun yy =>
      (intRange x (min (x + w - 1) (Config.W - 1))).map fun xx => (xx, yy)

/-- `clearBuffer()` (R80). -/
def execClearBuffer (s : State) : Host.Outcome State Fault Refusal := .next { s with fb := clearedFb }

/-- `setPixel(x,y,on)` (R81). -/
def execSetPixel (x y : Byte) (on : Bool) (s : State) : Host.Outcome State Fault Refusal :=
  .next { s with fb := writePixel s.fb (coord x) (coord y) on }

/-- `getPixel(x,y)` (R82). -/
def execGetPixel (x y : Byte) (s : State) : Host.Outcome State Fault Refusal :=
  .next (s.setResult (readPixel s.fb (coord x) (coord y)))

/-- `drawHLine(x0,x1,y)` (R83). -/
def execDrawHLine (x0 x1 y : Byte) (s : State) : Host.Outcome State Fault Refusal :=
  .next { s with fb := plotAll s.fb (hlinePoints (coord x0) (coord x1) (coord y)) }

/-- `drawVLine(x,y0,y1)` (R84). -/
def execDrawVLine (x y0 y1 : Byte) (s : State) : Host.Outcome State Fault Refusal :=
  .next { s with fb := plotAll s.fb (vlinePoints (coord x) (coord y0) (coord y1)) }

/-- `drawLine(x0,y0,x1,y1)` (R85). -/
def execDrawLine (x0 y0 x1 y1 : Byte) (s : State) : Host.Outcome State Fault Refusal :=
  .next { s with fb := plotAll s.fb (linePoints (coord x0) (coord y0) (coord x1) (coord y1)) }

/-- `drawRect(x,y,w,h)` (R86). -/
def execDrawRect (x y w h : Byte) (s : State) : Host.Outcome State Fault Refusal :=
  .next { s with fb := plotAll s.fb (rectPoints (coord x) (coord y) (coord w) (coord h)) }

/-- `fillRect(x,y,w,h)` (R87). -/
def execFillRect (x y w h : Byte) (s : State) : Host.Outcome State Fault Refusal :=
  .next { s with fb := plotAll s.fb (fillRectPoints (coord x) (coord y) (coord w) (coord h)) }

end Sys2Proof.Machine
end

