-- ==== Sys2Proof/Machine/Text.lean ====
section
/-! DEFINITION. Text operations (42_text.md R110 to R114): whole-byte stores into one page-row. -/

namespace Sys2Proof.Machine

/-- `n` blank columns from column `col` on, each skipped on its own if it lies at or beyond W (R112). -/
def blankColumns (page col n : Nat) (m : Memory) : Memory :=
  (List.range n).foldl (fun m k => if col + k < Config.W then writeByte m (fbAddr page (col + k)) 0 else m) m

/-- The effect of `drawChar` on the PixelBuffer (R112): the glyph if it fits, then the blank columns that lie inside. -/
def drawCharFb (m : Memory) (page col : Nat) (char : Byte) (f : Font) (spacing : Nat) : Memory :=
  if page ≥ Config.PAGES then m
  else
    blankColumns page (col + glyphWidth f) spacing
      (if col + glyphWidth f ≤ Config.W then writeBytes m (fbAddr page col) (glyph f char) else m)

/-- The effect of `drawText` on the PixelBuffer (R113): one character per pitch, until one would start at or beyond W. -/
def drawTextFb (page : Nat) (f : Font) : Memory → Nat → List Byte → Memory
  | m, _, [] => m
  | m, col, c :: cs =>
    if col ≥ Config.W then m
    else drawTextFb page f (drawCharFb m page col c f (pitch f - glyphWidth f)) (col + pitch f) cs

/-- `drawChar(page,col,char,font,spacing)` (R112). -/
def execDrawChar (page col char : Byte) (font : Font) (spacing : Byte) (s : State) :
    Host.Outcome State Fault Refusal :=
  .next { s with fb := drawCharFb s.fb page.toNat col.toNat char font spacing.toNat }

/-- `drawText(page,col,text,font)` (R113). -/
def execDrawText (page col : Byte) (text : List Byte) (font : Font) (s : State) :
    Host.Outcome State Fault Refusal :=
  .next { s with fb := drawTextFb page.toNat font s.fb col.toNat text }

/-- `drawNumber(page,col,value,font)` (R114): the decimal text of the sign-extended value. -/
def execDrawNumber (page col : Byte) (value : Word) (font : Font) (s : State) :
    Host.Outcome State Fault Refusal :=
  .next { s with fb := drawTextFb page.toNat font s.fb col.toNat (dec value.toInt) }

end Sys2Proof.Machine
end

