-- ==== Sys2Proof/Machine/Game.lean ====
section
/-! DEFINITION. Game state machine operations (44_game.md R130 to R150). -/

namespace Sys2Proof.Machine

/-! ### pollInput (R134 to R139, R146) -/

/-- The new INTENT for a key read while Running: an arrow that is not the reverse of APPLIED is taken (R139). -/
def intentAfter (k : Key) (applied intent : Direction) : Direction :=
  match k.direction? with
  | some d => if d = applied.reverse then intent else d
  | none => intent

/-- `pollInput(k)`, by the rows of R146: an OK edge toggles the pause or restarts, an arrow acts only while Running. -/
def pollKey (k : Key) (s : State) : State :=
  match s.gameState with
  | .running =>
    { s with
      gameState := if okEdge s.okHeld k then .paused else .running
      intent := intentAfter k s.applied s.intent
      okHeld := okHeldAfter k }
  | .paused =>
    { s with
      gameState := if okEdge s.okHeld k then .running else .paused
      okHeld := okHeldAfter k }
  | .gameOver => (if okEdge s.okHeld k then gameReset s else s).setOkHeld (okHeldAfter k)

/-! ### tick (R140 to R145) -/

/-- The head a tick in state `s` moves to (R140 step (b)). -/
def tickHead (s : State) : Point := newHead s.snake.head (appliedAfter s.applied s.intent)

/-- Whether a tick in state `s` eats: Running, no collision, the new head on FOOD (R140, R144). -/
def tickEats (s : State) : Bool :=
  decide (s.gameState = .running) && !occ s.snake.cells (tickHead s) && decide (tickHead s = s.food)

/-- The one case without a meaning: an eating tick at SCORE = 65535 (10_state.md R19, U7). -/
def scoreOverflow (s : State) : Bool := decide (s.score = 65535) && tickEats s

/-- The state after a tick (R140) that is not `scoreOverflow`. -/
def tickState (s : State) : State :=
  match s.gameState with
  | .paused => s
  | .gameOver => s
  | .running =>
    let s1 := { s with applied := appliedAfter s.applied s.intent }
    if occ s.snake.cells (tickHead s) then enterGameOver s1
    else
      let s2 := { s1 with snake := moveBody s.snake (tickHead s) }
      if tickHead s = s.food then eatFood s.snake.last s2 else s2

/-! ### render (R150) -/

/-- `INSET`, how far a cell square lies inside its cell (R150, D27). -/
def INSET : Nat := 1

/-- The points of `cellSquare` (R150). -/
def cellSquare (p : Point) : List Pixel :=
  fillRectPoints ((p.x.toNat * Config.CELL + INSET : Nat) : Int)
    ((Config.HUD + p.y.toNat * Config.CELL + INSET : Nat) : Int)
    ((Config.CELL - 2 * INSET : Nat) : Int) ((Config.CELL - 2 * INSET : Nat) : Int)

/-- "GAME OVER" (R150). -/
def textGameOver : List Byte := [0x47, 0x41, 0x4D, 0x45, 0x20, 0x4F, 0x56, 0x45, 0x52]

/-- "PRESS OK" (R150, D27). -/
def textPressOk : List Byte := [0x50, 0x52, 0x45, 0x53, 0x53, 0x20, 0x4F, 0x4B]

/-- "PAUSE" (R150). -/
def textPause : List Byte := [0x50, 0x41, 0x55, 0x53, 0x45]

/-- Step 6 of R150: the overlay of a game that is not Running. -/
def overlay (g : GameState) (m : Memory) : Memory :=
  match g with
  | .running => m
  | .paused => drawTextFb 2 .standard m 51 textPause
  | .gameOver => drawTextFb 3 .standard (drawTextFb 2 .standard m 39 textGameOver) 42 textPressOk

/-- The whole picture of a game (R150, steps 1 to 6); the buffer's old content plays no part. -/
def renderFb (g : GameState) (score : Half) (food : Point) (body : List Point) : Memory :=
  let border := plotAll clearedFb
    (rectPoints 0 Config.HUD (Config.COLS * Config.CELL : Nat) (Config.ROWS * Config.CELL : Nat))
  let hud := drawTextFb 0 .standard border 0 (dec score.toNat)
  overlay g (plotAll hud (cellSquare food ++ body.flatMap cellSquare))

/-- `render()` as a state change (R150). -/
def renderState (s : State) : State :=
  { s with fb := renderFb s.gameState s.score s.food s.snake.cells }

/-! ### The instructions -/

/-- `gameReset()` (R132). -/
def execGameReset (s : State) : Host.Outcome State Fault Refusal := .next (gameReset s)

/-- `placeFood()` (R133). -/
def execPlaceFood (s : State) : Host.Outcome State Fault Refusal := .next (placeFood s)

/-- `pollInput(key)` with its operand byte (R134). -/
def execPollInput (key : Byte) (s : State) : Host.Outcome State Fault Refusal := .next (pollKey (keyOfCode key) s)

/-- `tick()` (R140). -/
def execTick (s : State) : Host.Outcome State Fault Refusal :=
  if scoreOverflow s then .refused .scoreOverflow else .next (tickState s)

/-- `render()` (R150). -/
def execRender (s : State) : Host.Outcome State Fault Refusal := .next (renderState s)

end Sys2Proof.Machine
end

