-- ==== Sys2Proof/Machine/Loop.lean ====
section
/-! DEFINITION. The loop iteration, its four phases, `flush` and the power-on sequence (45_loop_flush.md R160 to R164,
70_reset_and_hazards.md R190). -/

namespace Sys2Proof.Machine

/-! ### flush (R164) -/

/-- The bytes of page `p`, columns ascending. -/
def pageBytes (m : Memory) (p : Nat) : List Byte := (List.range Config.W).map fun x => readByte m (fbAddr p x)

/-- The Transport calls of `flush`: for each page its addressing commands, then its bytes as one block (R164). -/
def flushCalls (m : Memory) : List TransportCall :=
  (List.finRange 6).flatMap fun p =>
    (Config.addrCmds p).map .sendCommand ++ [.sendDataBlock (pageBytes m p.val)]

/-- `flush()` as a state change: the output trace grows, nothing else changes (R164). -/
def flushState (s : State) : State := s.sendAll (flushCalls s.fb)

/-! ### The four phases (R12, R160) -/

/-- PHASE = INPUT: one key read, then `pollInput` (R161); then PHASE is STEP. -/
def inputPhase (s : State) : State :=
  let r := s.keyPort.next Config.keyRead
  { pollKey (keyOfCode (r.1.setWidth 8)) { s with keyPort := r.2 } with phase := .step }

/-- A tick boundary: `(now - LAST_TICK) mod 2^32 ≥ TICK_MS` (R162). -/
def tickDue (now lastTick : Word) (tickMs : Half) : Bool := decide (tickMs.toNat ≤ (now - lastTick).toNat)

/-- PHASE = STEP: one Clock read; at a tick boundary LAST_TICK takes it and `tick` runs (R162); then PHASE is RENDER. -/
def stepPhase (s : State) : Host.Outcome State Fault Refusal :=
  let r := s.clockPort.next Config.clockRead
  let due := tickDue r.1 s.lastTick s.tickMs
  let atTick := { s with clockPort := r.2, lastTick := r.1 }
  if scoreOverflow atTick && due then .refused .scoreOverflow
  else .next { (if due then tickState atTick else { s with clockPort := r.2 }) with phase := .render }

/-- PHASE = RENDER (R160); then PHASE is FLUSH. -/
def renderPhase (s : State) : State := { renderState s with phase := .flush }

/-- PHASE = FLUSH (R160); then PHASE is INPUT of the next iteration. -/
def flushPhase (s : State) : State := { flushState s with phase := .input }

/-- One step of the built-in loop: the phase that PHASE holds runs to completion (R12). -/
def loopPhase (s : State) : Host.Outcome State Fault Refusal :=
  match s.phase with
  | .input => .next (inputPhase s)
  | .step => stepPhase s
  | .render => .next (renderPhase s)
  | .flush => .next (flushPhase s)

/-- `loopIteration()` as a whole: the four phases in their fixed order (R160). -/
def loopPass (s : State) : Host.Outcome State Fault Refusal :=
  match stepPhase (inputPhase s) with
  | .next s' => .next (flushPhase (renderPhase s'))
  | .fault r => .fault r
  | .refused r => .refused r

/-! ### Power-on (R190) -/

/-- The power-on sequence: OK_HELD and RESULT cleared, `gameReset`, LAST_TICK from the Clock, PHASE at INPUT. -/
def powerOn (s : State) : State :=
  let g := gameReset { s with okHeld := false, result := false }
  let r := g.clockPort.next Config.clockRead
  { g with lastTick := r.1, clockPort := r.2, phase := .input }

/-! ### The instructions -/

/-- `flush()` (R164). -/
def execFlush (s : State) : Host.Outcome State Fault Refusal := .next (flushState s)

/-- `loopIteration()` (R160). -/
def execLoopIteration (s : State) : Host.Outcome State Fault Refusal := loopPass s

end Sys2Proof.Machine
end

