-- ==== Sys2Proof/Machine/Shapes.lean ====
section
/-! DEFINITION. Circle and triangle operations (41_circle_triangle.md R100 to R102). -/

namespace Sys2Proof.Machine

/-- The eight octant-symmetric points of one iteration of `drawCircle`, in the order they are plotted (R100). -/
def octants (cx cy x y : Int) : List Pixel :=
  [(cx + x, cy + y), (cx - x, cy + y), (cx + x, cy - y), (cx - x, cy - y),
    (cx + y, cy + x), (cx - y, cy + x), (cx + y, cy - x), (cx - y, cy - x)]

/-- The loop of `drawCircle` (R100): the updates of `d` use the incremented `y` and the decremented `x`; the Nat bounds the
iterations. -/
def circleWalk (cx cy : Int) : Nat → Int → Int → Int → List Pixel
  | 0, _, _, _ => []
  | n + 1, x, y, d =>
    if x ≥ y then
      octants cx cy x y ++
        if d < 0 then circleWalk cx cy n x (y + 1) (d + 2 * (y + 1) + 1)
        else circleWalk cx cy n (x - 1) (y + 1) (d + 2 * ((y + 1) - (x - 1)) + 1)
    else []

/-- The trace of `drawCircle(cx,cy,r)`, points outside the buffer included; at most `r + 1` iterations (R100, R200). -/
def circlePoints (cx cy r : Int) : List Pixel := circleWalk cx cy (r.toNat + 1) r 0 (1 - r)

/-- The trace of `drawTriangle`: the lines 0→1, 1→2, 2→0 (R101). -/
def trianglePoints (x0 y0 x1 y1 x2 y2 : Int) : List Pixel :=
  linePoints x0 y0 x1 y1 ++ linePoints x1 y1 x2 y2 ++ linePoints x2 y2 x0 y0

/-- One compare-and-swap of the sort by ascending y, carrying x (R102 step 1). -/
def orderByY (a b : Pixel) : Pixel × Pixel := if a.2 > b.2 then (b, a) else (a, b)

/-- The three vertices sorted by ascending y: compare-and-swaps of (0,1), (1,2), (0,1) (R102 step 1). -/
def sortByY (a b c : Pixel) : Pixel × Pixel × Pixel :=
  let bc := orderByY (orderByY a b).2 c
  let ab := orderByY (orderByY a b).1 bc.1
  (ab.1, ab.2, bc.2)

/-- `n` scanlines from `y` on: each span runs between the two edges, whose x is the edge's start plus its accumulator
divided, truncating, by the edge's Δy (R102 steps 4 and 5). -/
def spans (xa dxa dya xb dxb dyb : Int) : Nat → Int → Int → Int → List Pixel
  | 0, _, _, _ => []
  | n + 1, y, sa, sb =>
    hlinePoints (xa + Int.tdiv sa dya) (xb + Int.tdiv sb dyb) y
      ++ spans xa dxa dya xb dxb dyb n (y + 1) (sa + dxa) (sb + dxb)

/-- `last`, the last scanline of the upper part (R102 step 3). -/
def lastUpper (y1 y2 : Int) : Int := if y1 = y2 then y1 else y1 - 1

/-- The trace of `fillTriangle` for vertices already sorted by y (R102 steps 2 to 5). -/
def sortedTrianglePoints (x0 y0 x1 y1 x2 y2 : Int) : List Pixel :=
  if y0 = y2 then hlinePoints (min x0 (min x1 x2)) (max x0 (max x1 x2)) y0
  else
    spans x0 (x1 - x0) (y1 - y0) x0 (x2 - x0) (y2 - y0) (lastUpper y1 y2 - y0 + 1).toNat y0 0 0
      ++ spans x1 (x2 - x1) (y2 - y1) x0 (x2 - x0) (y2 - y0) (y2 - lastUpper y1 y2).toNat (lastUpper y1 y2 + 1)
        ((x2 - x1) * (lastUpper y1 y2 + 1 - y1)) ((x2 - x0) * (lastUpper y1 y2 + 1 - y0))

/-- The trace of `fillTriangle` (R102). -/
def fillTrianglePoints (x0 y0 x1 y1 x2 y2 : Int) : List Pixel :=
  let v := sortByY (x0, y0) (x1, y1) (x2, y2)
  sortedTrianglePoints v.1.1 v.1.2 v.2.1.1 v.2.1.2 v.2.2.1 v.2.2.2

/-- `drawCircle(cx,cy,r)` (R100). -/
def execDrawCircle (cx cy r : Byte) (s : State) : Host.Outcome State Fault Refusal :=
  .next { s with fb := plotAll s.fb (circlePoints (coord cx) (coord cy) (coord r)) }

/-- `drawTriangle(x0,y0,x1,y1,x2,y2)` (R101). -/
def execDrawTriangle (x0 y0 x1 y1 x2 y2 : Byte) (s : State) : Host.Outcome State Fault Refusal :=
  .next { s with
    fb := plotAll s.fb (trianglePoints (coord x0) (coord y0) (coord x1) (coord y1) (coord x2) (coord y2)) }

/-- `fillTriangle(x0,y0,x1,y1,x2,y2)` (R102). -/
def execFillTriangle (x0 y0 x1 y1 x2 y2 : Byte) (s : State) : Host.Outcome State Fault Refusal :=
  .next { s with
    fb := plotAll s.fb (fillTrianglePoints (coord x0) (coord y0) (coord x1) (coord y1) (coord x2) (coord y2)) }

end Sys2Proof.Machine
end

