-- ==== Sys2Proof/Machine/Dispatch.lean ====
section
/-! DEFINITION. exec: one arm per instruction, each one call of its meaning (30_encoding.md R63). -/

namespace Sys2Proof.Machine

def exec (i : Instr) (s : State) : Host.Outcome State Fault Refusal :=
  match i with
  | .clearBuffer => Sys2Proof.Machine.execClearBuffer s
  | .setPixel x y on => Sys2Proof.Machine.execSetPixel x y on s
  | .getPixel x y => Sys2Proof.Machine.execGetPixel x y s
  | .drawHLine x0 x1 y => Sys2Proof.Machine.execDrawHLine x0 x1 y s
  | .drawVLine x y0 y1 => Sys2Proof.Machine.execDrawVLine x y0 y1 s
  | .drawLine x0 y0 x1 y1 => Sys2Proof.Machine.execDrawLine x0 y0 x1 y1 s
  | .drawRect x y w h => Sys2Proof.Machine.execDrawRect x y w h s
  | .fillRect x y w h => Sys2Proof.Machine.execFillRect x y w h s
  | .drawCircle cx cy r => Sys2Proof.Machine.execDrawCircle cx cy r s
  | .drawTriangle x0 y0 x1 y1 x2 y2 => Sys2Proof.Machine.execDrawTriangle x0 y0 x1 y1 x2 y2 s
  | .fillTriangle x0 y0 x1 y1 x2 y2 => Sys2Proof.Machine.execFillTriangle x0 y0 x1 y1 x2 y2 s
  | .drawChar page col char font spacing => Sys2Proof.Machine.execDrawChar page col char font spacing s
  | .drawText page col text font => Sys2Proof.Machine.execDrawText page col text font s
  | .drawNumber page col value font => Sys2Proof.Machine.execDrawNumber page col value font s
  | .drawBitmap x y bitmap w h => Sys2Proof.Machine.execDrawBitmap x y bitmap w h s
  | .gameReset => Sys2Proof.Machine.execGameReset s
  | .pollInput key => Sys2Proof.Machine.execPollInput key s
  | .tick => Sys2Proof.Machine.execTick s
  | .render => Sys2Proof.Machine.execRender s
  | .flush => Sys2Proof.Machine.execFlush s
  | .placeFood => Sys2Proof.Machine.execPlaceFood s
  | .loopIteration => Sys2Proof.Machine.execLoopIteration s

end Sys2Proof.Machine
end

