-- ==== Sys2Proof/Machine/Step.lean ====
section
/-! DEFINITION. One step of the machine: the next operation of the operation stream while the stream holds bytes, else the
next phase of the built-in loop (30_encoding.md R60, 10_state.md R12; log 1 and 2). -/

namespace Sys2Proof.Machine

/-- The refusal that a decoding error becomes (R70, R71, U11). -/
def refusalOf : DecodeError → Refusal
  | .reservedOpcode => .reservedOpcode
  | .reservedFont => .reservedFont
  | .truncated => .truncatedStream

/-- One step. An operation is executed with the stream past its bytes; a stream without a meaning is refused. -/
def step (s : State) : Host.Outcome State Fault Refusal :=
  match s.stream with
  | [] => loopPhase s
  | b :: bs =>
    match decode (b :: bs) with
    | .ok (i, rest) => exec i { s with stream := rest }
    | .error e => .refused (refusalOf e)

/-- `s` with the one operation whose lowest `nbits` bits are `w` (its further bits 0) as its operation stream. -/
def State.withFetchWord (s : State) (nbits w : Nat) : State := { s with stream := tableBytes nbits w }

end Sys2Proof.Machine
end

