-- ==== Sys2Proof/Safety.lean ====
section
/-! DEFINITION. The terms in which statements about the machine are made: what a drawing operation lights, the invariants of
every run, the grid, the answers of a port, and what the outside observes. -/

namespace Sys2Proof.Machine

/-! ### Pictures -/

/-- From `m` to `m'` exactly the buffer pixels of which `P` holds become lit, every other pixel keeps its value, and every
byte that holds no such pixel reads as before. -/
def Lights (P : Int → Int → Prop) (m m' : Memory) : Prop :=
  (∀ x y, InBuffer x y → (readPixel m' x y = true ↔ readPixel m x y = true ∨ P x y)) ∧
  ∀ a, (∀ x y, InBuffer x y → P x y → a ≠ pixelAddr x y) → readByte m' a = readByte m a

/-- Two PixelBuffers that no read can tell apart. -/
def SameBytes (m m' : Memory) : Prop := ∀ a, readByte m a = readByte m' a

/-! ### The game -/

/-- A point of the 33 × 10 grid (44_game.md R131). -/
abbrev InGrid (p : Point) : Prop := p.x.toNat < Config.COLS ∧ p.y.toNat < Config.ROWS

/-- Two cells next to each other on the toroidal grid: one step in some direction leads from `q` to `p`. -/
def Adjacent (p q : Point) : Prop := ∃ d, p = newHead q d

/-- `SEG[i]` and `SEG[i+1]` are neighbours for every `i` (95_test_vectors.md section 11). -/
def BodyConnected (b : Snake) : Prop := b.cells.IsChain Adjacent

/-- What every run keeps (10_state.md R14 to R16, R20, R27; 95_test_vectors.md section 11). -/
structure State.Inv (s : State) : Prop where
  /-- The PixelBuffer is in its canonical form; that it is a list in this form is the model's choice (log 8). -/
  fb_wf : Memory.wf s.fb = true
  /-- `3 ≤ LEN`. -/
  len_low : 3 ≤ s.snake.len
  /-- `LEN ≤ SNAKE_CAP`. -/
  len_high : s.snake.len ≤ Config.snakeCap
  /-- Live segments are pairwise distinct. -/
  distinct : s.snake.cells.Nodup
  /-- Live segments lie in the grid. -/
  in_grid : ∀ p ∈ s.snake.cells, InGrid p
  /-- FOOD lies in the grid. -/
  food_in_grid : InGrid s.food
  /-- `INTENT ≠ -APPLIED`. -/
  no_reversal : s.intent ≠ s.applied.reverse
  /-- `TICK_FLOOR ≤ TICK_MS`. -/
  tick_low : Config.TICK_FLOOR ≤ s.tickMs.toNat
  /-- `TICK_MS ≤ TICK_BASE`. -/
  tick_high : s.tickMs.toNat ≤ Config.tickBase.toNat

/-- LEN and TICK_MS as functions of SCORE (95_test_vectors.md section 11). -/
structure State.ScoreTracks (s : State) : Prop where
  len_eq : s.snake.len = min (3 + s.score.toNat) Config.snakeCap
  tick_eq : s.tickMs.toNat = max (Config.tickBase.toNat - Config.TICK_STEP * s.score.toNat) Config.TICK_FLOOR

/-! ### Ports and the observable output -/

/-- The answer a port gives to its `k`-th call from now on. -/
def Port.answer {α : Type} (free : Nat → α) (p : Port α) (k : Nat) : α :=
  (p.pending[k]?).getD (free (p.taken + k))

/-- The port after `k` more calls. -/
def Port.after {α : Type} (p : Port α) (k : Nat) : Port α := ⟨p.pending.drop k, p.taken + k⟩

/-- What travels to the display for one call: each byte with its tag, `true` for data (45_loop_flush.md R164, R166). -/
def TransportCall.wire : TransportCall → List (Bool × Byte)
  | .sendCommand b => [(false, b)]
  | .sendData b => [(true, b)]
  | .sendDataBlock bs => bs.map fun b => (true, b)

/-- The tagged bytes of a sequence of calls, in order: all the outside observes of the block (00_scope.md R2). -/
def wireBytes (cs : List TransportCall) : List (Bool × Byte) := cs.flatMap TransportCall.wire

/-- The data bytes of a sequence of calls, in order. -/
def dataBytes (cs : List TransportCall) : List Byte := ((wireBytes cs).filter fun p => p.1).map fun p => p.2

/-! ### Running several instructions -/

/-- Runs instructions in order, stopping at the first that gives no next state. -/
def execAll : List Instr → State → Host.Outcome State Fault Refusal
  | [], s => .next s
  | i :: is, s =>
    match exec i s with
    | .next t => execAll is t
    | .fault r => .fault r
    | .refused r => .refused r

end Sys2Proof.Machine
end

