-- ==== Sys2Proof/Certificates/Slice0/Obligations.lean ====
section
/-! DEFINITION. The statements for the provers. Each names the rule of spec/ it formalises, or says that it is derived or
the model's own choice. -/

open Sys2Proof Sys2Proof.Machine

/-! ## Encoding -/

/-- Every well-formed instruction, with every operand at every value its encoding admits, decodes to itself whatever bytes
follow it (derived: the encoder and the decoder are both written from 30_encoding.md section 2). -/
def Obligations.DecodeEncodeRoundTrip : Prop :=
  ∀ (i : Instr) (rest : List Byte), i.WellFormed → decode (encode i ++ rest) = .ok (i, rest)

/-- R71: an operation's length is decided by its opcode byte, but for text (byte 4) and bitmap (bytes 3 and 4); the decoder
consumes exactly that many bytes and reads a well-formed instruction; a stream that ends inside an operation is refused. -/
def Obligations.DecodeConsumesTheOperationsLength : Prop :=
  (∀ bs i rest, decode bs = .ok (i, rest) →
    i.WellFormed ∧ ∃ n, opLength bs = some n ∧ n ≤ bs.length ∧ rest = bs.drop n) ∧
  (∀ (op : Byte) (r r' : List Byte), op ≠ 0x11 → op ≠ 0x18 → opLength (op :: r) = opLength (op :: r')) ∧
  (∀ (page col font n x y w h : Byte) (r : List Byte),
    opLength (0x11 :: page :: col :: font :: n :: r) = some (5 + n.toNat) ∧
    opLength (0x18 :: x :: y :: w :: h :: r) = some (5 + w.toNat * ((h.toNat + 7) / 8))) ∧
  (∀ (s : State) (n : Nat), opLength s.stream = some n → s.stream.length < n →
    ∃ e, step s = .refused e) ∧
  ∀ (s : State) (op : Byte) (r : List Byte), s.stream = op :: r → op = 0x11 ∨ op = 0x18 → r.length < 4 →
    ∃ e, step s = .refused e

/-- The opcode of each operation, from the table of R63. -/
def opcodeOf : Instr → Byte
  | .clearBuffer => 0x00
  | .setPixel _ _ _ => 0x01
  | .getPixel _ _ => 0x02
  | .drawHLine _ _ _ => 0x03
  | .drawVLine _ _ _ => 0x04
  | .drawLine _ _ _ _ => 0x05
  | .drawRect _ _ _ _ => 0x06
  | .fillRect _ _ _ _ => 0x07
  | .drawCircle _ _ _ => 0x08
  | .drawTriangle _ _ _ _ _ _ => 0x09
  | .fillTriangle _ _ _ _ _ _ => 0x0A
  | .drawChar _ _ _ _ _ => 0x10
  | .drawText _ _ _ _ => 0x11
  | .drawNumber _ _ _ _ => 0x12
  | .drawBitmap _ _ _ _ _ => 0x18
  | .gameReset => 0x20
  | .pollInput _ => 0x21
  | .tick => 0x22
  | .render => 0x23
  | .flush => 0x24
  | .placeFood => 0x25
  | .loopIteration => 0x26

/-- R63 (derived from its column "opcode"): whatever the decoder reads has the opcode byte that the table gives it, and the
encoder writes that byte. -/
def Obligations.OpcodeByteSelectsTheOperation : Prop :=
  (∀ bs i rest, decode bs = .ok (i, rest) → bs.head? = some (opcodeOf i)) ∧
  ∀ i, (encode i).head? = some (opcodeOf i)

/-- R64: the byte `on` is false when it is 0 and true for every other value. -/
def Obligations.OnByteIsTrueUnlessZero : Prop :=
  ∀ (x y on : Byte) (r : List Byte), decode (0x01 :: x :: y :: on :: r) = .ok (.setPixel x y (on != 0), r)

/-- R70: a step on a reserved opcode byte, or on a reserved font byte of a complete text operation, is a refusal. -/
def Obligations.ReservedEncodingsAreRefused : Prop :=
  (∀ (s : State) (b : Byte) (bs : List Byte), s.stream = b :: bs →
    ((0x0B ≤ b.toNat ∧ b.toNat ≤ 0x0F) ∨ (0x13 ≤ b.toNat ∧ b.toNat ≤ 0x17) ∨
      (0x19 ≤ b.toNat ∧ b.toNat ≤ 0x1F) ∨ 0x27 ≤ b.toNat) →
    step s = .refused .reservedOpcode) ∧
  (∀ (s : State) (page col char font spacing : Byte) (r : List Byte), 2 ≤ font.toNat →
    s.stream = 0x10 :: page :: col :: char :: font :: spacing :: r → step s = .refused .reservedFont) ∧
  (∀ (s : State) (page col font n : Byte) (r : List Byte), 2 ≤ font.toNat → n.toNat ≤ r.length →
    s.stream = 0x11 :: page :: col :: font :: n :: r → step s = .refused .reservedFont) ∧
  ∀ (s : State) (page col font v0 v1 v2 v3 : Byte) (r : List Byte), 2 ≤ font.toNat →
    s.stream = 0x12 :: page :: col :: font :: v0 :: v1 :: v2 :: v3 :: r → step s = .refused .reservedFont

/-- R62, R63: words written out from the formats decode to what 95_test_vectors.md section 13 says. -/
def Obligations.SampleWordsDecode : Prop :=
  decode [0x05, 0x00, 0x00, 0x05, 0x00] = .ok (.drawLine 0 0 5 0, []) ∧
  decode [0x01, 0x83, 0x2F, 0x01] = .ok (.setPixel 131 47 true, []) ∧
  decode [0x10, 0x02, 0x0A, 0x41, 0x01, 0x01] = .ok (.drawChar 2 10 0x41 .standard 1, []) ∧
  decode [0x11, 0x00, 0x78, 0x01, 0x03, 0x41, 0x42, 0x43] =
    .ok (.drawText 0 120 [0x41, 0x42, 0x43] .standard, []) ∧
  decode [0x12, 0x00, 0x00, 0x00, 0xD6, 0xFF, 0xFF, 0xFF] = .ok (.drawNumber 0 0 (BitVec.ofInt 32 (-42)) .compact, []) ∧
  decode [0x18, 0x03, 0x05, 0x02, 0x08, 0xFF, 0x81] = .ok (.drawBitmap 3 5 [0xFF, 0x81] 2 8, []) ∧
  decode [0x21, 0x09] = .ok (.pollInput 9, [])

/-! ## Stepping -/

/-- A step at a stream whose head decodes runs the decoded instruction with the stream past its bytes (the model's form of
R60: the stream is held in State, log 1). -/
def Obligations.StepRunsTheDecodedInstruction : Prop :=
  ∀ (s : State) (i : Instr) (rest : List Byte), decode s.stream = .ok (i, rest) →
    step s = exec i { s with stream := rest }

/-- R60: no operation changes which operation comes next. -/
def Obligations.NoInstructionTouchesTheStream : Prop :=
  ∀ (i : Instr) (s t : State), exec i s = .next t → t.stream = s.stream

/-- R12, R160 (derived; that the loop steps when no stream is placed, one phase a step, is the model's choice, log 2): with no
stream, a step does the work of the phase that PHASE holds, and no other, and moves PHASE on. INPUT is pollInput of the key
answered; STEP is the Clock's test and, at a tick boundary, LAST_TICK and a tick; RENDER is render; FLUSH is flush. The tick,
and the step with it, completes where SCORE is not 65535; a refused tick refuses the step (U7). -/
def Obligations.EmptyStreamStepsThroughThePhases : Prop :=
  ∀ s : State, s.stream = [] →
    (s.phase = .input → ∀ k : Byte, k = (s.keyPort.answer Config.keyRead 0).setWidth 8 →
      ∃ t, exec (.pollInput k) { s with keyPort := s.keyPort.after 1 } = .next t ∧
        step s = .next { t with phase := .step }) ∧
    (s.phase = .step → ∀ now : Word, now = s.clockPort.answer Config.clockRead 0 →
      ((now.toNat + 2 ^ 32 - s.lastTick.toNat) % 2 ^ 32 < s.tickMs.toNat →
        step s = .next { s with clockPort := s.clockPort.after 1, phase := .render }) ∧
      (s.tickMs.toNat ≤ (now.toNat + 2 ^ 32 - s.lastTick.toNat) % 2 ^ 32 →
        (s.score ≠ 65535 →
          ∃ t, exec .tick { s with clockPort := s.clockPort.after 1, lastTick := now } = .next t) ∧
        (∀ t, exec .tick { s with clockPort := s.clockPort.after 1, lastTick := now } = .next t →
          step s = .next { t with phase := .render }) ∧
        ∀ r, exec .tick { s with clockPort := s.clockPort.after 1, lastTick := now } = .refused r →
          step s = .refused r)) ∧
    (s.phase = .render → ∃ t, exec .render s = .next t ∧ step s = .next { t with phase := .flush }) ∧
    (s.phase = .flush → ∃ t, exec .flush s = .next t ∧ step s = .next { t with phase := .input })

/-- The one operation loopIteration and the four phases of the built-in loop are the same machine (derived: R12, R160). -/
def Obligations.LoopIterationIsFourPhaseSteps : Prop :=
  ∀ s : State, s.phase = .input → s.stream = [] → Host.Core.run Sys2Proof.core 4 s = exec .loopIteration s

/-- R170, R88, R130: every operation but a tick, alone or inside loopIteration, answers a next state on every state and
operands; a tick answers one unless it is an eating tick at SCORE = 65535 (U7). -/
def Obligations.EveryOperationCompletes : Prop :=
  (∀ (i : Instr) (s : State), i ≠ .tick → i ≠ .loopIteration → ∃ t, exec i s = .next t) ∧
  (∀ s : State, (s.score ≠ 65535 ∨ s.gameState ≠ .running) → ∃ t, exec .tick s = .next t) ∧
  ∀ s : State, (s.score ≠ 65535 ∨ s.gameState = .gameOver) → ∃ t, exec .loopIteration s = .next t

/-! ## Pixels, lines, rectangles -/

/-- R80: every byte of the buffer becomes 0x00 and nothing else changes. -/
def Obligations.ClearBufferZeroesEveryByte : Prop :=
  ∀ s : State, encode (.clearBuffer) = [0x00] ∧
    ∃ t, exec .clearBuffer s = .next t ∧ t = { s with fb := t.fb } ∧
    ∀ p x, p < 6 → x < 132 → readByte t.fb (fbAddr p x) = 0

/-- R81: inside the buffer one bit of one byte is set or cleared and every other byte reads as before; outside nothing
happens. -/
def Obligations.SetPixelWritesOneBit : Prop :=
  ∀ (x y : Byte) (on : Bool) (s : State),
    encode (.setPixel x y on) = [0x01, x, y, if on then 1 else 0] ∧
    ∃ t, exec (.setPixel x y on) s = .next t ∧ t = { s with fb := t.fb } ∧
      (x.toNat < 132 ∧ y.toNat < 48 → ∀ a, readByte t.fb a =
        if a = fbAddr (y.toNat / 8) x.toNat then
          (if on then readByte s.fb a ||| (1#8 <<< (y.toNat % 8)) else readByte s.fb a &&& ~~~(1#8 <<< (y.toNat % 8)))
        else readByte s.fb a) ∧
      (¬ (x.toNat < 132 ∧ y.toNat < 48) → t = s)

/-- R82: RESULT takes the pixel's bit, or false outside the buffer; nothing else changes. -/
def Obligations.GetPixelReadsOneBit : Prop :=
  ∀ (x y : Byte) (s : State),
    encode (.getPixel x y) = [0x02, x, y] ∧
    exec (.getPixel x y) s = .next { s with
      result := if x.toNat < 132 ∧ y.toNat < 48 then
        (readByte s.fb (fbAddr (y.toNat / 8) x.toNat)).getLsbD (y.toNat % 8) else false }

/-- The source's property S1 (derived: R51, R81, R82): inside the buffer a getPixel after a setPixel of the same pixel gives
the value set, outside it gives false; a getPixel of another pixel gives what it gave before. -/
def Obligations.GetPixelAfterSetPixel : Prop :=
  ∀ (x y x' y' : Byte) (on : Bool) (s t : State), exec (.setPixel x y on) s = .next t →
    ∃ u v, exec (.getPixel x' y') t = .next u ∧ exec (.getPixel x' y') s = .next v ∧
      u.result = if x' = x ∧ y' = y then (if x.toNat < 132 ∧ y.toNat < 48 then on else false) else v.result

/-- R83: the lit set is the intersection of the requested span with the buffer. -/
def Obligations.DrawHLineLightsTheSpan : Prop :=
  ∀ (x0 x1 y : Byte) (s : State),
    encode (.drawHLine x0 x1 y) = [0x03, x0, x1, y] ∧
    ∃ t, exec (.drawHLine x0 x1 y) s = .next t ∧ t = { s with fb := t.fb } ∧
      Lights (fun px py => min (x0.toNat : Int) x1.toNat ≤ px ∧ px ≤ max (x0.toNat : Int) x1.toNat ∧ py = y.toNat)
        s.fb t.fb

/-- R84: the same with the axes exchanged. -/
def Obligations.DrawVLineLightsTheSpan : Prop :=
  ∀ (x y0 y1 : Byte) (s : State),
    encode (.drawVLine x y0 y1) = [0x04, x, y0, y1] ∧
    ∃ t, exec (.drawVLine x y0 y1) s = .next t ∧ t = { s with fb := t.fb } ∧
      Lights (fun px py => px = x.toNat ∧ min (y0.toNat : Int) y1.toNat ≤ py ∧ py ≤ max (y0.toNat : Int) y1.toNat)
        s.fb t.fb

/-- One iteration of the loop of R85 on `(x, y, err)`: both tests on the same `2·err`, then the steps. -/
def bresenhamStep (dx dy sx sy : Int) (p : Int × Int × Int) : Int × Int × Int :=
  let e2 := 2 * p.2.2
  let p := if e2 > -dy then (p.1 + sx, p.2.1, p.2.2 - dy) else p
  if e2 < dx then (p.1, p.2.1 + sy, p.2.2 + dx) else p

/-- The `k`-th point R85 visits, with its error term, from `(x0,y0)` toward `(x1,y1)`. -/
def bresenhamPoint (x0 y0 x1 y1 : Int) (k : Nat) : Int × Int × Int :=
  (bresenhamStep |x1 - x0| |y1 - y0| (if x0 < x1 then 1 else -1) (if y0 < y1 then 1 else -1))^[k]
    (x0, y0, |x1 - x0| - |y1 - y0|)

/-- R85 (derived: the number of points is a sentence that R85 marks so): drawLine lights the points its iterations visit up to and with the first that is the end point, inside the buffer,
and there are max(dx,dy) + 1 of them: the walk meets the end point after exactly max(dx,dy) iterations. -/
def Obligations.DrawLineWalksToItsEndPoint : Prop :=
  ∀ (x0 y0 x1 y1 : Byte) (s : State),
    (∀ k : Nat, k ≤ (max |(x1.toNat : Int) - x0.toNat| |(y1.toNat : Int) - y0.toNat|).toNat →
      (((bresenhamPoint x0.toNat y0.toNat x1.toNat y1.toNat k).1 = x1.toNat ∧
        (bresenhamPoint x0.toNat y0.toNat x1.toNat y1.toNat k).2.1 = y1.toNat) ↔
          k = (max |(x1.toNat : Int) - x0.toNat| |(y1.toNat : Int) - y0.toNat|).toNat)) ∧
    encode (.drawLine x0 y0 x1 y1) = [0x05, x0, y0, x1, y1] ∧
    ∃ t, exec (.drawLine x0 y0 x1 y1) s = .next t ∧ t = { s with fb := t.fb } ∧
      Lights (fun px py => ∃ k : Nat, k ≤ (max |(x1.toNat : Int) - x0.toNat| |(y1.toNat : Int) - y0.toNat|).toNat ∧
        px = (bresenhamPoint x0.toNat y0.toNat x1.toNat y1.toNat k).1 ∧
        py = (bresenhamPoint x0.toNat y0.toNat x1.toNat y1.toNat k).2.1) s.fb t.fb

/-- R86: the outline of the rectangle, far edges at x+w-1 and y+h-1 without wrap; nothing for a zero size. -/
def Obligations.DrawRectLightsTheOutline : Prop :=
  ∀ (x y w h : Byte) (s : State),
    encode (.drawRect x y w h) = [0x06, x, y, w, h] ∧
    ∃ t, exec (.drawRect x y w h) s = .next t ∧ t = { s with fb := t.fb } ∧
      Lights (fun px py => w ≠ 0 ∧ h ≠ 0 ∧
        (((x.toNat : Int) ≤ px ∧ px ≤ x.toNat + w.toNat - 1 ∧ (py = y.toNat ∨ py = y.toNat + h.toNat - 1)) ∨
          ((y.toNat : Int) ≤ py ∧ py ≤ y.toNat + h.toNat - 1 ∧ (px = x.toNat ∨ px = x.toNat + w.toNat - 1)))) s.fb t.fb

/-- R87: the whole rectangle clipped to the buffer; nothing for a zero size or an origin outside the buffer. -/
def Obligations.FillRectLightsTheRectangle : Prop :=
  ∀ (x y w h : Byte) (s : State),
    encode (.fillRect x y w h) = [0x07, x, y, w, h] ∧
    ∃ t, exec (.fillRect x y w h) s = .next t ∧ t = { s with fb := t.fb } ∧
      Lights (fun px py => w ≠ 0 ∧ h ≠ 0 ∧ x.toNat < 132 ∧ y.toNat < 48 ∧
        (x.toNat : Int) ≤ px ∧ px ≤ min ((x.toNat : Int) + w.toNat - 1) 131 ∧
        (y.toNat : Int) ≤ py ∧ py ≤ min ((y.toNat : Int) + h.toNat - 1) 47) s.fb t.fb

/-! ## Circles and triangles -/

/-- One iteration of the loop of R100 on `(x, y, d)`. -/
def midpointStep (p : Int × Int × Int) : Int × Int × Int :=
  if p.2.2 < 0 then (p.1, p.2.1 + 1, p.2.2 + 2 * (p.2.1 + 1) + 1)
  else (p.1 - 1, p.2.1 + 1, p.2.2 + 2 * ((p.2.1 + 1) - (p.1 - 1)) + 1)

/-- `(x, y, d)` at the head of iteration `k` of R100 for radius `r`. -/
def midpointAt (r : Int) (k : Nat) : Int × Int × Int := midpointStep^[k] (r, 0, 1 - r)

/-- R100: drawCircle lights, for every iteration up to the last with x ≥ y, the eight octant-symmetric points. -/
def Obligations.DrawCircleLightsTheOctantPoints : Prop :=
  ∀ (cx cy r : Byte) (s : State),
    encode (.drawCircle cx cy r) = [0x08, cx, cy, r] ∧
    ∃ t, exec (.drawCircle cx cy r) s = .next t ∧ t = { s with fb := t.fb } ∧
      Lights (fun px py => ∃ k : Nat,
        (∀ j ≤ k, (midpointAt r.toNat j).2.1 ≤ (midpointAt r.toNat j).1) ∧
        ((|px - cx.toNat| = (midpointAt r.toNat k).1 ∧ |py - cy.toNat| = (midpointAt r.toNat k).2.1) ∨
          (|px - cx.toNat| = (midpointAt r.toNat k).2.1 ∧ |py - cy.toNat| = (midpointAt r.toNat k).1))) s.fb t.fb

/-- The source's property S3 (derived: R100): the plotted points, before clipping, are symmetric under the circle's 8
reflections. -/
def Obligations.CirclePointsAreSymmetric : Prop :=
  ∀ (cx cy r px py : Int), (px, py) ∈ circlePoints cx cy r →
    (2 * cx - px, py) ∈ circlePoints cx cy r ∧ (px, 2 * cy - py) ∈ circlePoints cx cy r ∧
      (cx + (py - cy), cy + (px - cx)) ∈ circlePoints cx cy r

/-- R101: drawTriangle is the three drawLine calls 0→1, 1→2, 2→0. -/
def Obligations.DrawTriangleIsThreeLines : Prop :=
  ∀ (x0 y0 x1 y1 x2 y2 : Byte) (s : State),
    encode (.drawTriangle x0 y0 x1 y1 x2 y2) = [0x09, x0, y0, x1, y1, x2, y2] ∧
    ∃ t, exec (.drawTriangle x0 y0 x1 y1 x2 y2) s = .next t ∧ t = { s with fb := t.fb } ∧
      execAll [.drawLine x0 y0 x1 y1, .drawLine x1 y1 x2 y2, .drawLine x2 y2 x0 y0] s = .next t

/-- The two ends of the span of scanline `y` in the closed form of R102, for vertices sorted by y that are not all on one
scanline: edge 0-2 against edge 0-1 above and edge 1-2 below. -/
def triangleSpan (x0 y0 x1 y1 x2 y2 y : Int) : Int × Int :=
  (if y1 = y2 ∨ y < y1 then x0 + Int.tdiv ((y - y0) * (x1 - x0)) (y1 - y0)
    else x1 + Int.tdiv ((y - y1) * (x2 - x1)) (y2 - y1),
   x0 + Int.tdiv ((y - y0) * (x2 - x0)) (y2 - y0))

/-- R102 for vertices given in ascending y (derived: the closed form the rule gives): each scanline between y0 and y2 is lit
from edge to edge, divisions truncating toward zero; one span from min to max when all y are equal. -/
def Obligations.FillTriangleFillsTheClosedForm : Prop :=
  ∀ (x0 y0 x1 y1 x2 y2 : Byte) (s : State), y0.toNat ≤ y1.toNat → y1.toNat ≤ y2.toNat →
    encode (.fillTriangle x0 y0 x1 y1 x2 y2) = [0x0A, x0, y0, x1, y1, x2, y2] ∧
    ∃ t, exec (.fillTriangle x0 y0 x1 y1 x2 y2) s = .next t ∧ t = { s with fb := t.fb } ∧
      Lights (fun px py => (y0.toNat : Int) ≤ py ∧ py ≤ y2.toNat ∧
        if y0 = y2 then
          min (x0.toNat : Int) (min x1.toNat x2.toNat) ≤ px ∧ px ≤ max (x0.toNat : Int) (max x1.toNat x2.toNat)
        else
          min (triangleSpan x0.toNat y0.toNat x1.toNat y1.toNat x2.toNat y2.toNat py).1
              (triangleSpan x0.toNat y0.toNat x1.toNat y1.toNat x2.toNat y2.toNat py).2 ≤ px ∧
            px ≤ max (triangleSpan x0.toNat y0.toNat x1.toNat y1.toNat x2.toNat y2.toNat py).1
              (triangleSpan x0.toNat y0.toNat x1.toNat y1.toNat x2.toNat y2.toNat py).2) s.fb t.fb

/-- R102 (f) (derived): the lit set does not depend on the order in which the three vertices are given. The two exchanges
generate all six orders. -/
def Obligations.FillTriangleIgnoresVertexOrder : Prop :=
  ∀ (x0 y0 x1 y1 x2 y2 : Byte) (s : State),
    ∃ t u v, exec (.fillTriangle x0 y0 x1 y1 x2 y2) s = .next t ∧
      exec (.fillTriangle x1 y1 x0 y0 x2 y2) s = .next u ∧ exec (.fillTriangle x0 y0 x2 y2 x1 y1) s = .next v ∧
      SameBytes t.fb u.fb ∧ SameBytes t.fb v.fb

/-! ## Text and bitmaps -/

/-- R111: glyph lookup is total, by direct index in the Standard font, with the fallback outside 32..126 in the Compact
font; a glyph has GW(font) columns. -/
def Obligations.GlyphLookupIsTotal : Prop :=
  (∀ (c : Byte) (j : Nat) (h : j < 5), (glyph .standard c)[j]? = some (Config.standardGlyph c ⟨j, h⟩)) ∧
  (∀ (c : Byte) (k : Fin 95) (j : Nat) (h : j < 3), c.toNat = 32 + k.val →
    (glyph .compact c)[j]? = some (Config.compactGlyph k ⟨j, h⟩)) ∧
  (∀ (c : Byte) (j : Nat) (h : j < 3), c.toNat < 32 ∨ 126 < c.toNat →
    (glyph .compact c)[j]? = some (Config.compactFallback ⟨j, h⟩)) ∧
  ∀ (f : Font) (c : Byte),
    (glyph f c).length = glyphWidth f ∧
      (glyphWidth f, pitch f) = match f with | .compact => (3, 4) | .standard => (5, 6)

/-- R112: the glyph's columns are stored whole where the glyph fits, the blank columns that lie inside follow, and every
other byte of the buffer reads as before; a page beyond the last draws nothing. -/
def Obligations.DrawCharStoresTheGlyph : Prop :=
  ∀ (page col char : Byte) (font : Font) (spacing : Byte) (s : State),
    encode (.drawChar page col char font spacing) = [0x10, page, col, char, font.code, spacing] ∧
    ∃ t, exec (.drawChar page col char font spacing) s = .next t ∧ t = { s with fb := t.fb } ∧
      (6 ≤ page.toNat → t = s) ∧
      ∀ p x, p < 6 → x < 132 → readByte t.fb (fbAddr p x) =
        if p = page.toNat ∧ col.toNat ≤ x ∧ x < col.toNat + glyphWidth font ∧ col.toNat + glyphWidth font ≤ 132 then
          ((glyph font char)[x - col.toNat]?).getD 0
        else if p = page.toNat ∧ col.toNat + glyphWidth font ≤ x ∧ x < col.toNat + glyphWidth font + spacing.toNat then 0
        else readByte s.fb (fbAddr p x)

/-- R113, its loop in closed form: column `x` of the page belongs to character `(x - col)/pitch`; a character whose glyph
fits has its columns and one blank column stored, every other byte of the buffer reads as before. -/
def Obligations.DrawTextStoresOneCellPerPitch : Prop :=
  ∀ (page col : Byte) (text : List Byte) (font : Font) (s : State),
    encode (.drawText page col text font) = [0x11, page, col, font.code, BitVec.ofNat 8 text.length] ++ text ∧
    ∃ t, exec (.drawText page col text font) s = .next t ∧ t = { s with fb := t.fb } ∧
      ∀ p x, p < 6 → x < 132 → readByte t.fb (fbAddr p x) =
        if p = page.toNat ∧ col.toNat ≤ x ∧ (x - col.toNat) / pitch font < text.length ∧
            col.toNat + (x - col.toNat) / pitch font * pitch font + glyphWidth font ≤ 132 then
          ((glyph font ((text[(x - col.toNat) / pitch font]?).getD 0))[(x - col.toNat) % pitch font]?).getD 0
        else readByte s.fb (fbAddr p x)

/-- The number that decimal digit bytes, most significant first, stand for. -/
def valueOfDigits (bs : List Byte) : Nat := bs.foldl (fun n b => 10 * n + (b.toNat - 0x30)) 0

/-- R114: drawNumber is drawText of the value's decimal: '-' exactly for negatives, then the digits of the absolute value, each
0x30 + k, without leading zeros, "0" for zero; at most 11 bytes. -/
def Obligations.DrawNumberDrawsTheDecimal : Prop :=
  ∀ (page col : Byte) (value : Word) (font : Font) (s : State),
    encode (.drawNumber page col value font) = [0x12, page, col, font.code, value.extractLsb' 0 8, value.extractLsb' 8 8,
      value.extractLsb' 16 8, value.extractLsb' 24 8] ∧
    ∃ (ds text : List Byte) (t : State), text = (if value.toInt < 0 then [0x2D] else []) ++ ds ∧
      valueOfDigits ds = value.toInt.natAbs ∧ (∀ b ∈ ds, 0x30 ≤ b.toNat ∧ b.toNat ≤ 0x39) ∧
      ds ≠ [] ∧ (ds.head? = some 0x30 → ds = [0x30]) ∧ text.length ≤ 11 ∧
      exec (.drawNumber page col value font) s = .next t ∧ t = { s with fb := t.fb } ∧
      exec (.drawText page col text font) s = .next t

/-- R125: source bit `b` of source page `sp`, column `i` lights pixel `(x + i, y + 8·sp + b)` where that lies in the buffer;
nothing is ever cleared. -/
def Obligations.DrawBitmapLightsTheSourcePixels : Prop :=
  ∀ (x y : Byte) (bitmap : List Byte) (w h : Byte) (s : State),
    (Instr.drawBitmap x y bitmap w h).WellFormed →
    encode (.drawBitmap x y bitmap w h) = [0x18, x, y, w, h] ++ bitmap ∧
    ∃ t, exec (.drawBitmap x y bitmap w h) s = .next t ∧ t = { s with fb := t.fb } ∧
      Lights (fun px py => ∃ sp i b v, sp < (h.toNat + 7) / 8 ∧ i < w.toNat ∧ b < 8 ∧
        bitmap[sp * w.toNat + i]? = some v ∧ v.getLsbD b = true ∧
        px = (x.toNat + i : Nat) ∧ py = (y.toNat + sp * 8 + b : Nat)) s.fb t.fb

/-- R48: every drawing operation is idempotent: repeating it on its own result changes no byte of the buffer. -/
def Obligations.DrawingTwiceIsDrawingOnce : Prop :=
  ∀ (i : Instr) (s t : State),
    (match i with
      | .clearBuffer | .setPixel _ _ _ | .drawHLine _ _ _ | .drawVLine _ _ _ | .drawLine _ _ _ _ | .drawRect _ _ _ _
      | .fillRect _ _ _ _ | .drawCircle _ _ _ | .drawTriangle _ _ _ _ _ _ | .fillTriangle _ _ _ _ _ _
      | .drawChar _ _ _ _ _ | .drawText _ _ _ _ | .drawNumber _ _ _ _ | .drawBitmap _ _ _ _ _ | .render => True
      | _ => False) →
    exec i s = .next t → ∃ u, exec i t = .next u ∧ SameBytes u.fb t.fb

/-! ## The game -/

/-- R132, R33: the game registers of a new game, FOOD as placeFood chooses it for the new snake, and nothing else. -/
def Obligations.GameResetSetsUpANewGame : Prop :=
  ∀ s : State, ∃ t u, exec .gameReset s = .next t ∧
    exec .placeFood { s with snake := ⟨⟨16, 5⟩, [⟨15, 5⟩, ⟨14, 5⟩]⟩ } = .next u ∧
    t = { s with
      snake := ⟨⟨16, 5⟩, [⟨15, 5⟩, ⟨14, 5⟩]⟩
      applied := .right
      intent := .right
      score := 0
      tickMs := Config.tickBase
      gameState := .running
      food := u.food
      rndPort := u.rndPort }

/-- R133: only FOOD and the Rnd port change. The first free cell drawn becomes FOOD and no further cell is drawn; after 100
occupied draws FOOD is the first free cell in row-major order, or any grid cell when none is free. -/
def Obligations.PlaceFoodDrawsThenScans : Prop :=
  ∀ s : State, encode (.gameReset) = [0x20] ∧
    encode (.placeFood) = [0x25] ∧
    ∃ t, exec .placeFood s = .next t ∧ t = { s with food := t.food, rndPort := t.rndPort } ∧
    (∀ k < 100, (∀ j < k, pointOfCell (s.rndPort.answer Config.rndCell j) ∈ s.snake.cells) →
      pointOfCell (s.rndPort.answer Config.rndCell k) ∉ s.snake.cells →
      t.food = pointOfCell (s.rndPort.answer Config.rndCell k) ∧ t.rndPort = s.rndPort.after (k + 1)) ∧
    ((∀ j < 100, pointOfCell (s.rndPort.answer Config.rndCell j) ∈ s.snake.cells) →
      t.rndPort = s.rndPort.after 100 ∧ InGrid t.food ∧
      ∀ x y, x < 33 → y < 10 → pointOf x y ∉ s.snake.cells →
        (∀ x' y', x' < 33 → y' < 10 → (y' < y ∨ (y' = y ∧ x' < x)) → pointOf x' y' ∈ s.snake.cells) →
        t.food = pointOf x y)

/-- R133, R16 (derived): whatever the draws, while a grid cell is free FOOD ends on a free grid cell; with exactly one free
cell, on that one (the source's property S6). -/
def Obligations.PlaceFoodFindsAFreeCell : Prop :=
  ∀ (s : State) (c : Point), InGrid c → c ∉ s.snake.cells →
    ∃ t, exec .placeFood s = .next t ∧ InGrid t.food ∧ t.food ∉ s.snake.cells ∧
      ((∀ c', InGrid c' → c' ≠ c → c' ∈ s.snake.cells) → t.food = c)

/-- R134 to R139: the whole effect of one key read, by key code, state and latch. -/
def Obligations.PollInputFollowsItsTable : Prop :=
  ∀ (key : Byte) (s : State),
    encode (.pollInput key) = [0x21, key] ∧
    (key = 5 → s.okHeld = false →
      (s.gameState = .running →
        exec (.pollInput key) s = .next { s with gameState := .paused, okHeld := true }) ∧
      (s.gameState = .paused →
        exec (.pollInput key) s = .next { s with gameState := .running, okHeld := true }) ∧
      (s.gameState = .gameOver → ∃ t, exec .gameReset s = .next t ∧
        exec (.pollInput key) s = .next { t with okHeld := true })) ∧
    (key = 5 → s.okHeld = true → exec (.pollInput key) s = .next s) ∧
    (∀ d, (key, d) ∈ [((1 : Byte), Direction.up), (2, .down), (3, .left), (4, .right)] →
      exec (.pollInput key) s = .next { s with
        intent := if s.gameState = .running ∧ d ≠ s.applied.reverse then d else s.intent
        okHeld := false }) ∧
    (key = 0 ∨ 6 ≤ key.toNat → exec (.pollInput key) s = .next { s with okHeld := false })

/-- R17 (derived: the rule marks its sentence on the reverse so): the codes of the directions and their unit vectors; the exact reverse of code `c` is `c xor 1`, and it negates the
unit vector. -/
def Obligations.ReverseIsCodeXorOne : Prop :=
  ([Direction.right, .left, .down, .up].map fun d => (d.code, d.dx, d.dy)) = [(0, 1, 0), (1, -1, 0), (2, 0, 1), (3, 0, -1)] ∧
  ∀ d : Direction, d.reverse.code = d.code ^^^ 1 ∧ d.reverse.dx = -d.dx ∧ d.reverse.dy = -d.dy

/-- R141: the new head is one cell on, each axis wrapping on its own modulo 33 and 10; only one coordinate of a grid cell
changes. -/
def Obligations.NewHeadWrapsEachAxis : Prop :=
  (∀ (h : Point) (d : Direction), (((newHead h d).x.toNat : Int) = ((h.x.toNat : Int) + d.dx) % 33) ∧
    (((newHead h d).y.toNat : Int) = ((h.y.toNat : Int) + d.dy) % 10)) ∧
  (∀ (h : Point) (d : Direction), InGrid h → ((newHead h d).x = h.x ↔ (newHead h d).y ≠ h.y)) ∧
  ∀ v : Byte, newHead ⟨32, v⟩ .right = ⟨0, (newHead ⟨32, v⟩ .right).y⟩ ∧
    newHead ⟨0, v⟩ .left = ⟨32, (newHead ⟨0, v⟩ .left).y⟩ ∧
    newHead ⟨v, 9⟩ .down = ⟨(newHead ⟨v, 9⟩ .down).x, 0⟩ ∧ newHead ⟨v, 0⟩ .up = ⟨(newHead ⟨v, 0⟩ .up).x, 9⟩

/-- R140: a tick in a game that is not Running does nothing. -/
def Obligations.TickOutsideRunningDoesNothing : Prop :=
  ∀ s : State, s.gameState ≠ .running → exec .tick s = .next s

/-- R142, R173: a new head on any live segment, the tail included, ends the game; nothing else changes but APPLIED, taken
from INTENT before the test. -/
def Obligations.TickCollisionEndsTheGame : Prop :=
  ∀ (s : State) (d : Direction), s.gameState = .running →
    d = (if s.intent = s.applied.reverse then s.applied else s.intent) →
    newHead s.snake.head d ∈ s.snake.cells →
    exec .tick s = .next { s with applied := d, gameState := .gameOver }

/-- R143: without a collision and away from FOOD every segment moves one slot toward the tail and the new head takes slot
0; the old tail leaves the body; nothing else changes but APPLIED. -/
def Obligations.TickMovesTheSnake : Prop :=
  ∀ (s : State) (d : Direction), s.gameState = .running →
    d = (if s.intent = s.applied.reverse then s.applied else s.intent) →
    newHead s.snake.head d ∉ s.snake.cells → newHead s.snake.head d ≠ s.food →
    exec .tick s = .next { s with
      applied := d
      snake := ⟨newHead s.snake.head d, s.snake.cells.dropLast⟩ }

/-- R145: an eating tick keeps the former tail while LEN is below SNAKE_CAP and drops it otherwise, adds one to SCORE, takes
5 ms off TICK_MS down to 80, and places new food for the body so grown; nothing else changes but APPLIED. -/
def Obligations.TickEatsTheFood : Prop :=
  ∀ (s : State) (d : Direction), s.gameState = .running → s.score ≠ 65535 →
    d = (if s.intent = s.applied.reverse then s.applied else s.intent) →
    newHead s.snake.head d ∉ s.snake.cells → newHead s.snake.head d = s.food →
    ∃ b u, b = (⟨newHead s.snake.head d,
        if s.snake.len < Config.snakeCap then s.snake.cells else s.snake.cells.dropLast⟩ : Snake) ∧
      exec .placeFood { s with snake := b } = .next u ∧
      exec .tick s = .next { s with
        applied := d
        snake := b
        score := s.score + 1
        tickMs := BitVec.ofNat 16 (max (s.tickMs.toNat - 5) 80)
        food := u.food
        rndPort := u.rndPort }

/-- R19, U7: an eating tick at SCORE = 65535 has no meaning and is refused. -/
def Obligations.EatingTickAtFullScoreIsRefused : Prop :=
  ∀ (s : State) (d : Direction), s.gameState = .running → s.score = 65535 →
    d = (if s.intent = s.applied.reverse then s.applied else s.intent) →
    newHead s.snake.head d ∉ s.snake.cells → newHead s.snake.head d = s.food →
    exec .tick s = .refused .scoreOverflow

/-- R146: the transitions of STATE. GameOver is entered only by tick and only from Running, Paused only by pollInput from
Running, Running only by pollInput or a game reset. -/
def Obligations.StateTransitionsFollowTheTable : Prop :=
  ∀ (i : Instr) (s t : State), i ≠ .loopIteration → exec i s = .next t → t.gameState ≠ s.gameState →
    (s.gameState = .running ∧ t.gameState = .gameOver ∧ i = .tick) ∨
    (s.gameState = .running ∧ t.gameState = .paused ∧ i = .pollInput 5 ∧ s.okHeld = false) ∨
    (s.gameState = .paused ∧ t.gameState = .running ∧ ((i = .pollInput 5 ∧ s.okHeld = false) ∨ i = .gameReset)) ∨
    (s.gameState = .gameOver ∧ t.gameState = .running ∧ ((i = .pollInput 5 ∧ s.okHeld = false) ∨ i = .gameReset))

/-- R147 (a) (derived): a direction opposite to the applied one, queued between two ticks, is ignored: after the tick the
snake goes on in its prior direction. -/
def Obligations.ReversalIsIgnored : Prop :=
  ∀ (s : State) (key : Byte) (d : Direction), s.gameState = .running → s.intent = s.applied → d = s.applied.reverse →
    (key, d) ∈ [((1 : Byte), Direction.up), (2, .down), (3, .left), (4, .right)] →
    ∀ t u, exec (.pollInput key) s = .next t → exec .tick t = .next u → u.applied = s.applied ∧
      (u.gameState = .running → u.snake.head = newHead s.snake.head s.applied)

/-- R147 (b) (derived): a straight three-cell snake in the middle of the grid that moves right goes round the grid in COLS = 33
ticks and is then where it was, the game still Running, as long as no food lies on its row. -/
def Obligations.StraightSnakeGoesRound : Prop :=
  ∀ s : State, s.gameState = .running → s.applied = .right → s.intent = .right →
    s.snake = ⟨⟨16, 5⟩, [⟨15, 5⟩, ⟨14, 5⟩]⟩ → s.food.y ≠ 5 → execAll (List.replicate 33 .tick) s = .next s

/-- The operations of R150 for a game, in order, with its numerals written out. -/
def renderOps (s : State) : List Instr :=
  let square : Point → Instr := fun p =>
    .fillRect (BitVec.ofNat 8 (4 * p.x.toNat + 1)) (BitVec.ofNat 8 (9 + 4 * p.y.toNat)) 2 2
  [.clearBuffer, .drawRect 0 8 132 40, .drawNumber 0 0 (s.score.setWidth 32) .standard, square s.food] ++
    s.snake.cells.map square ++
    match s.gameState with
    | .running => []
    | .gameOver => [.drawText 2 39 [0x47, 0x41, 0x4D, 0x45, 0x20, 0x4F, 0x56, 0x45, 0x52] .standard,
        .drawText 3 42 [0x50, 0x52, 0x45, 0x53, 0x53, 0x20, 0x4F, 0x4B] .standard]
    | .paused => [.drawText 2 51 [0x50, 0x41, 0x55, 0x53, 0x45] .standard]

/-- R150, R73: on a game whose cells lie in the grid, render is exactly its expansion into drawing operations. -/
def Obligations.RenderIsItsExpansion : Prop :=
  ∀ s : State, InGrid s.food → (∀ p ∈ s.snake.cells, InGrid p) →
    encode (.render) = [0x23] ∧
    ∃ t, exec .render s = .next t ∧ t = { s with fb := t.fb } ∧ execAll (renderOps s) s = .next t

/-- R150 (derived): the picture depends only on the game registers, never on the buffer's old content. -/
def Obligations.RenderIgnoresTheOldPicture : Prop :=
  ∀ s s' : State, s'.gameState = s.gameState → s'.score = s.score → s'.food = s.food → s'.snake = s.snake →
    ∃ t t', exec .render s = .next t ∧ exec .render s' = .next t' ∧ t'.fb = t.fb

/-! ## Flush and the loop -/

/-- R164: for each page, ascending, its addressing commands and then its 132 bytes as one block; 792 data bytes in address
order; nothing else changes. -/
def Obligations.FlushSendsTheWholeBuffer : Prop :=
  ∀ s : State, encode .flush = [0x24] ∧
    ∃ cs, exec .flush s = .next { s with transport := s.transport ++ cs } ∧
    cs = ([0, 1, 2, 3, 4, 5] : List (Fin 6)).flatMap (fun p =>
      (Config.addrCmds p).map TransportCall.sendCommand ++
        [.sendDataBlock ((List.range 132).map fun x => readByte s.fb (p.val * 132 + x))]) ∧
    dataBytes cs = (List.range 792).map (readByte s.fb)

/-- The iteration `loopIteration` of `s` ends as its RENDER and FLUSH phases end from `b`. -/
def endsAsFrom (s b : State) : Prop :=
  ∃ c d : State, exec .render b = .next c ∧ exec .flush c = .next d ∧ exec .loopIteration s = .next { d with phase := .input }

/-- R160 (derived: that PHASE ends at INPUT is log 3): loopIteration is pollInput of one key read, then the tick test on one Clock read, then render, then flush. Where the
elapsed time modulo 2^32 is at least TICK_MS, LAST_TICK takes the Clock value and tick runs. The tick, and the iteration with
it, completes where SCORE is not 65535; a refused tick refuses the iteration (U7). -/
def Obligations.LoopIterationRunsItsFourPhases : Prop :=
  ∀ (s : State) (k : Byte) (now : Word),
    k = (s.keyPort.answer Config.keyRead 0).setWidth 8 → now = s.clockPort.answer Config.clockRead 0 →
    encode .loopIteration = [0x26] ∧
    ∃ a b : State, exec (.pollInput k) { s with keyPort := s.keyPort.after 1 } = .next a ∧
      b = { a with clockPort := a.clockPort.after 1 } ∧
      ((now.toNat + 2 ^ 32 - a.lastTick.toNat) % 2 ^ 32 < a.tickMs.toNat → endsAsFrom s b) ∧
      (a.tickMs.toNat ≤ (now.toNat + 2 ^ 32 - a.lastTick.toNat) % 2 ^ 32 →
        (s.score ≠ 65535 → ∃ c, exec .tick { b with lastTick := now } = .next c) ∧
        (∀ c, exec .tick { b with lastTick := now } = .next c → endsAsFrom s c) ∧
        ∀ r, exec .tick { b with lastTick := now } = .refused r → exec .loopIteration s = .refused r)

/-- R161, R180 (derived): a loopIteration that completes has read the key exactly once and the Clock exactly once. -/
def Obligations.LoopIterationReadsEachInputOnce : Prop :=
  ∀ s t : State, exec .loopIteration s = .next t →
    t.keyPort = s.keyPort.after 1 ∧ t.clockPort = s.clockPort.after 1

/-- R165, R178: no operation but flush, alone or inside loopIteration, calls the Transport, and no operation takes back a
call. -/
def Obligations.OnlyFlushCallsTheTransport : Prop :=
  ∀ (i : Instr) (s t : State), exec i s = .next t →
    (∃ cs, t.transport = s.transport ++ cs) ∧ (i ≠ .flush → i ≠ .loopIteration → t.transport = s.transport)

/-- The operations of the drawing files, R80 to R125. -/
def isDrawing : Instr → Bool
  | .gameReset | .placeFood | .pollInput _ | .tick | .render | .flush | .loopIteration => false
  | _ => true

/-- The game operations that R29 names. -/
def isGame : Instr → Bool
  | .gameReset | .placeFood | .pollInput _ | .tick => true
  | _ => false

/-- R29: only drawing operations, `render` and the loop that runs it write the PixelBuffer; the game operations neither read nor
write it; drawing operations, `render` and `flush` write no game register, and no drawing operation but `render` reads one. -/
def Obligations.OwnershipOfBufferAndGame : Prop :=
  ∀ (i : Instr) (s t : State), exec i s = .next t →
    (isDrawing i = false → i ≠ .render → i ≠ .loopIteration → t.fb = s.fb) ∧
    (isGame i = true → ∀ m : Memory, exec i { s with fb := m } = .next { t with fb := m }) ∧
    (isDrawing i = true ∨ i = .render ∨ i = .flush →
      t.snake = s.snake ∧ t.food = s.food ∧ t.applied = s.applied ∧ t.intent = s.intent ∧ t.score = s.score ∧
      t.tickMs = s.tickMs ∧ t.gameState = s.gameState ∧ t.okHeld = s.okHeld ∧ t.lastTick = s.lastTick) ∧
    (isDrawing i = true → ∀ s' : State, s'.fb = s.fb → s'.result = s.result →
      ∃ t', exec i s' = .next t' ∧ t'.fb = t.fb ∧ t'.result = t.result)

/-- R11 (derived from its column "written by"): RESULT is written by getPixel alone, OK_HELD by pollInput, LAST_TICK and PHASE
by the sequencer, INTENT by gameReset and pollInput, APPLIED, the snake, SCORE and TICK_MS by gameReset and tick. -/
def Obligations.RegistersHaveTheirWriters : Prop :=
  ∀ (i : Instr) (s t : State), i ≠ .loopIteration → exec i s = .next t →
    t.phase = s.phase ∧ t.lastTick = s.lastTick ∧
    (t.result ≠ s.result → ∃ x y, i = .getPixel x y) ∧
    (t.okHeld ≠ s.okHeld → ∃ k, i = .pollInput k) ∧
    (t.intent ≠ s.intent → i = .gameReset ∨ ∃ k, i = .pollInput k) ∧
    (t.applied ≠ s.applied ∨ t.snake ≠ s.snake ∨ t.score ≠ s.score ∨ t.tickMs ≠ s.tickMs →
      i = .gameReset ∨ i = .tick ∨ (i = .pollInput 5 ∧ s.gameState = .gameOver)) ∧
    (t.food ≠ s.food → i = .placeFood ∨ i = .gameReset ∨ i = .tick ∨ (i = .pollInput 5 ∧ s.gameState = .gameOver))

/-! ## Reset and invariants -/

/-- R32: the values after power-on that the spec gives. FOOD is a grid cell and not a snake cell. -/
def Obligations.ResetHasTheSpecsValues : Prop :=
  State.reset.phase = .input ∧ State.reset.gameState = .running ∧ State.reset.snake.len = 3 ∧
  State.reset.snake.cells = [⟨16, 5⟩, ⟨15, 5⟩, ⟨14, 5⟩] ∧
  State.reset.applied = .right ∧ State.reset.intent = .right ∧
  InGrid State.reset.food ∧ State.reset.food ∉ State.reset.snake.cells ∧
  State.reset.score = 0 ∧ State.reset.tickMs = Config.tickBase ∧ State.reset.okHeld = false ∧
  State.reset.result = false ∧ ∃ n, State.reset.lastTick = Config.clockRead n

/-- The reset state is what the power-on sequence of R190 makes of any state whose buffer, trace, stream and ports are fresh
(derived: R190; that those four are fresh is the model's choice, log 1, 4, 8 and 11). -/
def Obligations.ResetIsThePowerOnSequence : Prop :=
  ∀ s : State, s.fb = [] → s.transport = [] → s.stream = [] →
    s.keyPort = Port.fresh → s.clockPort = Port.fresh → s.rndPort = Port.fresh → powerOn s = State.reset

/-- The invariants hold at reset (derived: R27, R32; that the buffer is a list in canonical form is the model's choice,
log 8). -/
def Obligations.ResetMeetsTheInvariant : Prop :=
  State.reset.Inv ∧ State.reset.ScoreTracks ∧ BodyConnected State.reset.snake

/-- Every step keeps the canonical buffer, 3 ≤ LEN ≤ SNAKE_CAP, distinct segments in the grid, FOOD in the grid,
INTENT ≠ -APPLIED and 80 ≤ TICK_MS ≤ TICK_BASE (derived: R14, R15, R16, R20, R27; the clause on the canonical buffer is the model's choice, log
8). -/
def Obligations.EveryStepKeepsTheInvariant : Prop :=
  ∀ s t : State, s.Inv → step s = .next t → t.Inv

/-- Every step keeps LEN = min(3 + SCORE, SNAKE_CAP) and TICK_MS = max(TICK_BASE - 5·SCORE, 80) (derived: R132, R145;
95_test_vectors.md section 11). -/
def Obligations.EveryStepKeepsLenAndTickInStepWithScore : Prop :=
  ∀ s t : State, s.ScoreTracks → step s = .next t → t.ScoreTracks

/-- Every step keeps the body connected: SEG[i] and SEG[i+1] stay neighbours on the torus (derived: R141, R143, R145;
95_test_vectors.md section 11). -/
def Obligations.EveryStepKeepsTheBodyConnected : Prop :=
  ∀ s t : State, BodyConnected s.snake → step s = .next t → BodyConnected t.snake
end

