-- ==== Sys2Proof/Laws/Config.lean ====
section
/-! SUPPORT. All that is known of the open parameters: their ranges (00_scope.md R5, R7). -/

namespace Sys2Proof.Config

theorem three_le_snakeCap : 3 ≤ snakeCap := Nat.le_add_right 3 _

theorem snakeCap_le : snakeCap ≤ COLS * ROWS := by
  have := snakeCapExtra.isLt
  simp only [snakeCap, COLS_eq, ROWS_eq]
  omega

theorem tickBase_toNat : tickBase.toNat = TICK_FLOOR + tickBaseExtra.val := by
  have := tickBaseExtra.isLt
  rw [tickBase, BitVec.toNat_ofNat, TICK_FLOOR_eq]
  omega

theorem tickFloor_le_tickBase : TICK_FLOOR ≤ tickBase.toNat := by
  rw [tickBase_toNat]
  exact Nat.le_add_right _ _

end Sys2Proof.Config
end

