-- ==== Sys2Proof/Laws/Memory.lean ====
section
/-! SUPPORT. What the PixelBuffer operations do, said once each: reads after writes, pixels after plots, and that every
memory operation keeps the canonical form. -/

namespace Sys2Proof.Machine

/-! ### Bytes -/

theorem lookup_insert (m : Memory) (a : Nat) (b : Byte) (a' : Nat) :
    Memory.lookup (Memory.insert m a b) a' = if a' = a then some b else Memory.lookup m a' := by
  induction m with
  | nil => simp only [Memory.insert, Memory.lookup, eq_comm]
  | cons kv m ih =>
    obtain ⟨k, v⟩ := kv
    by_cases hlt : a < k
    · simp only [Memory.insert, if_pos hlt, Memory.lookup, eq_comm]
    by_cases heq : a = k
    · subst heq
      by_cases h : a' = a
      · simp [Memory.insert, Memory.lookup, h]
      · simp [Memory.insert, Memory.lookup, h, Ne.symm h]
    · simp only [Memory.insert, if_neg hlt, if_neg heq, Memory.lookup, ih]
      by_cases h : k = a'
      · rw [if_pos h, if_pos h, if_neg (by omega)]
      · rw [if_neg h, if_neg h]

/-- A read after a write: the byte written at that address, the old byte everywhere else; a write outside 0..791 has no
effect. -/
theorem readByte_writeByte (m : Memory) (a : Nat) (b : Byte) (a' : Nat) :
    readByte (writeByte m a b) a' = if a' = a ∧ a < Config.FB_BYTES then b else readByte m a' := by
  unfold writeByte readByte
  by_cases h : a < Config.FB_BYTES
  · by_cases h' : a' = a <;> simp [h, h', lookup_insert]
  · simp [h]

theorem readByte_writeByte_ne (m : Memory) {a a' : Nat} (b : Byte) (h : a' ≠ a) :
    readByte (writeByte m a b) a' = readByte m a' := by
  simp [readByte_writeByte, h]

/-! ### The canonical form -/

theorem Memory.wf_iff (m : Memory) :
    Memory.wf m = true ↔ m.Pairwise (fun p q => p.1 < q.1) ∧ ∀ p ∈ m, p.1 < Config.FB_BYTES := by
  simp [Memory.wf]

theorem Memory.mem_insert {m : Memory} {a : Nat} {b : Byte} {p : Host.Cell} (h : p ∈ Memory.insert m a b) :
    p = (a, b) ∨ p ∈ m := by
  induction m with
  | nil => simpa [Memory.insert] using h
  | cons kv m ih =>
    obtain ⟨k, v⟩ := kv
    simp only [Memory.insert] at h
    split_ifs at h
    · simpa using h
    · rcases List.mem_cons.1 h with h | h
      · exact .inl h
      · exact .inr (List.mem_cons_of_mem _ h)
    · rcases List.mem_cons.1 h with h | h
      · exact .inr (h ▸ List.mem_cons_self)
      · exact (ih h).imp id (List.mem_cons_of_mem _)

theorem Memory.insert_wf {m : Memory} {a : Nat} (b : Byte) (h : Memory.wf m = true) (ha : a < Config.FB_BYTES) :
    Memory.wf (Memory.insert m a b) = true := by
  rw [Memory.wf_iff] at h ⊢
  obtain ⟨hp, hb⟩ := h
  refine ⟨?_, fun p hmem => ?_⟩
  · clear hb
    induction m with
    | nil => simp [Memory.insert]
    | cons kv m ih =>
      obtain ⟨k, v⟩ := kv
      obtain ⟨hk, hm⟩ := List.pairwise_cons.1 hp
      simp only [Memory.insert]
      split_ifs with hlt heq
      · refine List.pairwise_cons.2 ⟨fun q hq => ?_, hp⟩
        rcases List.mem_cons.1 hq with rfl | hq
        · exact hlt
        · exact lt_trans hlt (hk q hq)
      · exact List.pairwise_cons.2 ⟨fun q hq => heq ▸ hk q hq, hm⟩
      · refine List.pairwise_cons.2 ⟨fun q hq => ?_, ih hm⟩
        rcases Memory.mem_insert hq with rfl | hq
        · show k < a
          omega
        · exact hk q hq
  · rcases Memory.mem_insert hmem with rfl | hmem
    · exact ha
    · exact hb p hmem

theorem writeByte_wf {m : Memory} (a : Nat) (b : Byte) (h : Memory.wf m = true) :
    Memory.wf (writeByte m a b) = true := by
  unfold writeByte
  split_ifs with ha
  · exact Memory.insert_wf b h ha
  · exact h

theorem writeBytes_wf {m : Memory} (a : Nat) (bs : List Byte) (h : Memory.wf m = true) :
    Memory.wf (writeBytes m a bs) = true := by
  induction bs generalizing m a with
  | nil => exact h
  | cons b bs ih => exact ih _ (writeByte_wf a b h)

theorem orByte_wf {m : Memory} (p x : Nat) (v : Byte) (h : Memory.wf m = true) :
    Memory.wf (orByte m p x v) = true := by
  unfold orByte
  split_ifs
  · exact writeByte_wf _ _ h
  · exact h

theorem clearedFb_wf : Memory.wf clearedFb = true := by
  rw [Memory.wf_iff]
  refine ⟨?_, ?_⟩
  · exact List.pairwise_map.2 List.pairwise_lt_range
  · intro p hp
    obtain ⟨a, ha, rfl⟩ := List.mem_map.1 hp
    exact List.mem_range.1 ha

theorem reset_fb_wf : Memory.wf State.reset.fb = true := rfl

theorem writePixel_wf {m : Memory} (x y : Int) (on : Bool) (h : Memory.wf m = true) :
    Memory.wf (writePixel m x y on) = true := by
  by_cases hb : InBuffer x y
  · rw [writePixel, if_pos hb]
    exact writeByte_wf _ _ h
  · rwa [writePixel, if_neg hb]

/-- What a fold of steps that each keep the canonical form keeps. -/
theorem foldl_wf {α : Type} {f : Memory → α → Memory}
    (hf : ∀ m x, Memory.wf m = true → Memory.wf (f m x) = true) (xs : List α) {m : Memory}
    (h : Memory.wf m = true) : Memory.wf (xs.foldl f m) = true := by
  induction xs generalizing m with
  | nil => exact h
  | cons x xs ih => exact ih (hf m x h)

theorem plotAll_wf {m : Memory} (ps : List Pixel) (h : Memory.wf m = true) : Memory.wf (plotAll m ps) = true :=
  foldl_wf (fun _ p hm => writePixel_wf p.1 p.2 true hm) ps h

theorem blankColumns_wf {m : Memory} (page col n : Nat) (h : Memory.wf m = true) :
    Memory.wf (blankColumns page col n m) = true := by
  refine foldl_wf (fun m k hm => ?_) _ h
  split_ifs
  · exact writeByte_wf _ _ hm
  · exact hm

theorem drawCharFb_wf {m : Memory} (page col : Nat) (c : Byte) (f : Font) (spacing : Nat)
    (h : Memory.wf m = true) : Memory.wf (drawCharFb m page col c f spacing) = true := by
  unfold drawCharFb
  by_cases hp : page ≥ Config.PAGES
  · rwa [if_pos hp]
  rw [if_neg hp]
  by_cases hc : col + glyphWidth f ≤ Config.W
  · rw [if_pos hc]
    exact blankColumns_wf _ _ _ (writeBytes_wf _ _ h)
  · rw [if_neg hc]
    exact blankColumns_wf _ _ _ h

theorem drawTextFb_wf {m : Memory} (page col : Nat) (f : Font) (text : List Byte) (h : Memory.wf m = true) :
    Memory.wf (drawTextFb page f m col text) = true := by
  induction text generalizing m col with
  | nil => exact h
  | cons c cs ih =>
    unfold drawTextFb
    split_ifs
    · exact h
    · exact ih _ (drawCharFb_wf _ _ _ _ _ h)

theorem orSourceByte_wf {m : Memory} (y sp dx : Nat) (v : Byte) (h : Memory.wf m = true) :
    Memory.wf (orSourceByte m y sp dx v) = true := by
  unfold orSourceByte
  split_ifs
  · exact h
  · exact orByte_wf _ _ _ h
  · exact orByte_wf _ _ _ (orByte_wf _ _ _ h)

theorem drawBitmapFb_wf {m : Memory} (x y : Nat) (bm : List Byte) (w pages : Nat) (h : Memory.wf m = true) :
    Memory.wf (drawBitmapFb m x y bm w pages) = true := by
  refine foldl_wf (fun m p hm => ?_) _ h
  split
  · exact orSourceByte_wf _ _ _ _ hm
  · exact hm

theorem overlay_wf {m : Memory} (g : GameState) (h : Memory.wf m = true) : Memory.wf (overlay g m) = true := by
  cases g
  · exact h
  · exact drawTextFb_wf _ _ _ _ h
  · exact drawTextFb_wf _ _ _ _ (drawTextFb_wf _ _ _ _ h)

theorem renderFb_wf (g : GameState) (score : Half) (food : Point) (body : List Point) :
    Memory.wf (renderFb g score food body) = true :=
  overlay_wf g (plotAll_wf _ (drawTextFb_wf _ _ _ _ (plotAll_wf _ clearedFb_wf)))

/-! ### Pixels -/

/-- Two buffer positions share a byte exactly when they are in one column and one page. -/
theorem pixelAddr_inj {x y x' y' : Int} (h : InBuffer x y) (h' : InBuffer x' y') :
    pixelAddr x y = pixelAddr x' y' ↔ x = x' ∧ y / 8 = y' / 8 := by
  obtain ⟨h1, h2, h3, h4⟩ := h
  obtain ⟨h1', h2', h3', h4'⟩ := h'
  simp only [Config.W_eq, Config.H_eq] at h2 h4 h2' h4'
  simp only [pixelAddr, fbAddr, Config.W_eq]
  omega

theorem pixelAddr_lt {x y : Int} (h : InBuffer x y) : pixelAddr x y < Config.FB_BYTES := by
  obtain ⟨h1, h2, h3, h4⟩ := h
  simp only [Config.W_eq, Config.H_eq] at h2 h4
  simp only [pixelAddr, fbAddr, Config.W_eq, Config.FB_BYTES_eq]
  omega

theorem pixelBit_lt (y : Int) : pixelBit y < 8 := by
  unfold pixelBit
  omega

/-- The mask of a row has its own bit and no other. -/
theorem getLsbD_pixelMask (y : Int) (b : Nat) :
    (pixelMask y).getLsbD b = decide (b = pixelBit y) := by
  have := pixelBit_lt y
  unfold pixelMask
  rw [BitVec.getLsbD_shiftLeft, BitVec.getLsbD_one]
  by_cases h : b = pixelBit y
  · simp [h, this]
  · simp only [h, decide_false]
    by_cases h' : b < pixelBit y
    · simp [h']
    · simp [h', show ¬ (b - pixelBit y = 0) by omega]

/-- What `setPixel` does to the byte of its pixel, and that every other byte keeps its value (R81). -/
theorem readByte_writePixel (m : Memory) {x y : Int} (on : Bool) (h : InBuffer x y) (a : Nat) :
    readByte (writePixel m x y on) a =
      if a = pixelAddr x y then
        (if on then readByte m (pixelAddr x y) ||| pixelMask y
          else readByte m (pixelAddr x y) &&& ~~~pixelMask y)
      else readByte m a := by
  rw [writePixel, if_pos h, readByte_writeByte]
  simp only [pixelAddr_lt h, and_true]

theorem writePixel_outside (m : Memory) {x y : Int} (on : Bool) (h : ¬ InBuffer x y) :
    writePixel m x y on = m := by
  unfold writePixel
  rw [if_neg h]

theorem readPixel_outside (m : Memory) {x y : Int} (h : ¬ InBuffer x y) : readPixel m x y = false := by
  unfold readPixel
  rw [if_neg h]

/-- After `setPixel` that pixel has the value written and every other pixel keeps its value (R81, R82). -/
theorem readPixel_writePixel (m : Memory) (x y : Int) (on : Bool) (x' y' : Int) :
    readPixel (writePixel m x y on) x' y' =
      if InBuffer x y ∧ x' = x ∧ y' = y then on else readPixel m x' y' := by
  by_cases h : InBuffer x y
  swap
  · simp [writePixel_outside m on h, h]
  by_cases h' : InBuffer x' y'
  swap
  · rw [readPixel_outside _ h', readPixel_outside _ h', if_neg]
    rintro ⟨hb, rfl, rfl⟩
    exact h' hb
  unfold readPixel
  rw [if_pos h', if_pos h', readByte_writePixel m on h]
  by_cases ha : pixelAddr x' y' = pixelAddr x y
  swap
  · rw [if_neg ha, if_neg]
    rintro ⟨_, rfl, rfl⟩
    exact ha rfl
  obtain ⟨hx, hp⟩ := (pixelAddr_inj h' h).1 ha
  rw [if_pos ha, ha]
  have hmask : (pixelMask y).getLsbD (pixelBit y') = decide (y' = y) := by
    rw [getLsbD_pixelMask]
    simp only [pixelBit]
    congr 1
    apply propext
    omega
  have hlt := pixelBit_lt y'
  by_cases hy : y' = y
  · rw [if_pos (c := InBuffer x y ∧ x' = x ∧ y' = y) ⟨h, hx, hy⟩]
    cases on
    · rw [if_neg Bool.false_ne_true, BitVec.getLsbD_and, BitVec.getLsbD_not, hmask]
      simp only [hy, decide_true, Bool.not_true, Bool.and_false]
    · rw [if_pos rfl, BitVec.getLsbD_or, hmask]
      simp only [hy, decide_true, Bool.or_true]
  · rw [if_neg (c := InBuffer x y ∧ x' = x ∧ y' = y) fun hh => hy hh.2.2]
    cases on
    · rw [if_neg Bool.false_ne_true, BitVec.getLsbD_and, BitVec.getLsbD_not, hmask]
      simp only [hy, hlt, decide_true, decide_false, Bool.not_false, Bool.and_true]
    · rw [if_pos rfl, BitVec.getLsbD_or, hmask]
      simp only [hy, decide_false, Bool.or_false]

/-- After a trace is plotted a buffer pixel is lit exactly when it was lit or lies on the trace. -/
theorem readPixel_plotAll (m : Memory) (ps : List Pixel) {x y : Int} (h : InBuffer x y) :
    readPixel (plotAll m ps) x y = true ↔ readPixel m x y = true ∨ (x, y) ∈ ps := by
  induction ps generalizing m with
  | nil => simp [plotAll]
  | cons p ps ih =>
    obtain ⟨px, py⟩ := p
    have := ih (writePixel m px py true)
    rw [plotAll, List.foldl_cons, ← plotAll, this, readPixel_writePixel]
    by_cases he : x = px ∧ y = py
    · obtain ⟨rfl, rfl⟩ := he
      rw [if_pos ⟨h, rfl, rfl⟩]
      simp only [List.mem_cons_self, true_or, or_true]
    · have hne : (x, y) ≠ (px, py) := fun hh => he (by simpa using hh)
      rw [if_neg (fun hh => he hh.2)]
      simp [hne]

/-- A byte that holds no buffer pixel of the trace reads as before. -/
theorem readByte_plotAll (m : Memory) (ps : List Pixel) {a : Nat}
    (h : ∀ x y, InBuffer x y → (x, y) ∈ ps → a ≠ pixelAddr x y) : readByte (plotAll m ps) a = readByte m a := by
  induction ps generalizing m with
  | nil => rfl
  | cons p ps ih =>
    obtain ⟨px, py⟩ := p
    rw [plotAll, List.foldl_cons, ← plotAll, ih _ fun x y hb hm => h x y hb (List.mem_cons_of_mem _ hm)]
    by_cases hb : InBuffer px py
    · rw [readByte_writePixel m true hb, if_neg (h px py hb List.mem_cons_self)]
    · rw [writePixel_outside m true hb]

/-- Plotting a trace lights exactly its points (the one lemma about `plotAll`). -/
theorem lights_plotAll (m : Memory) (ps : List Pixel) : Lights (fun x y => (x, y) ∈ ps) m (plotAll m ps) :=
  ⟨fun _ _ h => readPixel_plotAll m ps h, fun _ h => readByte_plotAll m ps h⟩

/-- `Lights` only depends on which buffer pixels the predicate names. -/
theorem Lights.congr {P Q : Int → Int → Prop} {m m' : Memory} (h : Lights P m m')
    (hPQ : ∀ x y, InBuffer x y → (P x y ↔ Q x y)) : Lights Q m m' :=
  ⟨fun x y hb => (h.1 x y hb).trans (or_congr_right (hPQ x y hb)),
    fun a ha => h.2 a fun x y hb hp => ha x y hb ((hPQ x y hb).1 hp)⟩

/-! ### Traces -/

theorem mem_intRange {lo hi x : Int} : x ∈ intRange lo hi ↔ lo ≤ x ∧ x ≤ hi := by
  unfold intRange
  rw [List.mem_map]
  constructor
  · rintro ⟨k, hk, rfl⟩
    have := List.mem_range.1 hk
    omega
  · rintro ⟨h1, h2⟩
    exact ⟨(x - lo).toNat, List.mem_range.2 (by omega), by omega⟩

theorem mem_hlinePoints {x0 x1 y x y' : Int} :
    (x, y') ∈ hlinePoints x0 x1 y ↔ InBuffer x y' ∧ y' = y ∧ min x0 x1 ≤ x ∧ x ≤ max x0 x1 := by
  unfold hlinePoints InBuffer
  rw [Config.W_eq, Config.H_eq]
  by_cases h : y < 0 ∨ y ≥ ((48 : Nat) : Int)
  · rw [if_pos h]
    exact ⟨fun hm => absurd hm List.not_mem_nil, by omega⟩
  · rw [if_neg h, List.mem_map]
    constructor
    · rintro ⟨k, hk, he⟩
      obtain ⟨rfl, rfl⟩ := Prod.mk.inj he
      rw [mem_intRange] at hk
      omega
    · rintro ⟨hb, rfl, h1, h2⟩
      exact ⟨x, mem_intRange.2 (by omega), rfl⟩

theorem mem_vlinePoints {x y0 y1 x' y : Int} :
    (x', y) ∈ vlinePoints x y0 y1 ↔ InBuffer x' y ∧ x' = x ∧ min y0 y1 ≤ y ∧ y ≤ max y0 y1 := by
  unfold vlinePoints InBuffer
  rw [Config.W_eq, Config.H_eq]
  by_cases h : x < 0 ∨ x ≥ ((132 : Nat) : Int)
  · rw [if_pos h]
    exact ⟨fun hm => absurd hm List.not_mem_nil, by omega⟩
  · rw [if_neg h, List.mem_map]
    constructor
    · rintro ⟨k, hk, he⟩
      obtain ⟨rfl, rfl⟩ := Prod.mk.inj he
      rw [mem_intRange] at hk
      omega
    · rintro ⟨hb, rfl, h1, h2⟩
      exact ⟨y, mem_intRange.2 (by omega), rfl⟩

/-! ### Stored bytes -/

/-- After bytes are stored at rising addresses inside the buffer, those addresses hold them and the rest keep theirs. -/
theorem readByte_writeBytes (m : Memory) (a : Nat) (bs : List Byte) (h : a + bs.length ≤ Config.FB_BYTES) (a' : Nat) :
    readByte (writeBytes m a bs) a' = if a ≤ a' then (bs[a' - a]?).getD (readByte m a') else readByte m a' := by
  induction bs generalizing m a with
  | nil => simp [writeBytes]
  | cons b bs ih =>
    simp only [List.length_cons] at h
    rw [writeBytes, ih _ _ (by omega), readByte_writeByte]
    have ha : a < Config.FB_BYTES := by omega
    rcases lt_trichotomy a' a with hlt | rfl | hgt
    · rw [if_neg (by omega), if_neg (by omega), if_neg (by omega)]
    · rw [if_neg (by omega), if_pos ⟨rfl, ha⟩, if_pos le_rfl]
      simp
    · rw [if_pos (by omega), if_neg (by omega), if_pos (by omega)]
      have : a' - a = (a' - (a + 1)) + 1 := by omega
      rw [this, List.getElem?_cons_succ]

/-- A byte ORed in: the address of an existing page takes the OR, every other address keeps its byte. -/
theorem readByte_orByte (m : Memory) {p x : Nat} (v : Byte) (hx : x < Config.W) (a : Nat) :
    readByte (orByte m p x v) a =
      if p < Config.PAGES ∧ a = fbAddr p x then readByte m a ||| v else readByte m a := by
  unfold orByte
  by_cases hp : p < Config.PAGES
  swap
  · rw [if_neg hp, if_neg fun h => hp h.1]
  have hlt : fbAddr p x < Config.FB_BYTES := by
    simp only [fbAddr, Config.W_eq, Config.PAGES_eq, Config.FB_BYTES_eq] at *
    omega
  rw [if_pos hp, readByte_writeByte]
  by_cases ha : a = fbAddr p x
  · rw [if_pos ⟨ha, hlt⟩, if_pos ⟨hp, ha⟩, ha]
  · rw [if_neg fun h => ha h.1, if_neg fun h => ha h.2]

theorem glyph_length (f : Font) (c : Byte) : (glyph f c).length = glyphWidth f := by
  cases f
  · simp only [glyph]
    split_ifs <;> simp [glyphWidth]
  · simp [glyph, glyphWidth]

end Sys2Proof.Machine
end

