-- ==== Sys2Proof/Laws/State.lean ====
section
/-! SUPPORT. One lemma per field of State for each named update: what the update writes, and that it leaves the rest. -/

namespace Sys2Proof.Machine

/-! ### State.setOkHeld -/

@[simp] theorem State.setOkHeld_phase (s : State) (b : Bool) : (s.setOkHeld b).phase = s.phase := rfl
@[simp] theorem State.setOkHeld_gameState (s : State) (b : Bool) : (s.setOkHeld b).gameState = s.gameState := rfl
@[simp] theorem State.setOkHeld_snake (s : State) (b : Bool) : (s.setOkHeld b).snake = s.snake := rfl
@[simp] theorem State.setOkHeld_food (s : State) (b : Bool) : (s.setOkHeld b).food = s.food := rfl
@[simp] theorem State.setOkHeld_applied (s : State) (b : Bool) : (s.setOkHeld b).applied = s.applied := rfl
@[simp] theorem State.setOkHeld_intent (s : State) (b : Bool) : (s.setOkHeld b).intent = s.intent := rfl
@[simp] theorem State.setOkHeld_score (s : State) (b : Bool) : (s.setOkHeld b).score = s.score := rfl
@[simp] theorem State.setOkHeld_tickMs (s : State) (b : Bool) : (s.setOkHeld b).tickMs = s.tickMs := rfl
@[simp] theorem State.setOkHeld_okHeld (s : State) (b : Bool) : (s.setOkHeld b).okHeld = b := rfl
@[simp] theorem State.setOkHeld_lastTick (s : State) (b : Bool) : (s.setOkHeld b).lastTick = s.lastTick := rfl
@[simp] theorem State.setOkHeld_result (s : State) (b : Bool) : (s.setOkHeld b).result = s.result := rfl
@[simp] theorem State.setOkHeld_fb (s : State) (b : Bool) : (s.setOkHeld b).fb = s.fb := rfl
@[simp] theorem State.setOkHeld_transport (s : State) (b : Bool) : (s.setOkHeld b).transport = s.transport := rfl
@[simp] theorem State.setOkHeld_stream (s : State) (b : Bool) : (s.setOkHeld b).stream = s.stream := rfl
@[simp] theorem State.setOkHeld_keyPort (s : State) (b : Bool) : (s.setOkHeld b).keyPort = s.keyPort := rfl
@[simp] theorem State.setOkHeld_clockPort (s : State) (b : Bool) : (s.setOkHeld b).clockPort = s.clockPort := rfl
@[simp] theorem State.setOkHeld_rndPort (s : State) (b : Bool) : (s.setOkHeld b).rndPort = s.rndPort := rfl

/-! ### State.setResult -/

@[simp] theorem State.setResult_phase (s : State) (b : Bool) : (s.setResult b).phase = s.phase := rfl
@[simp] theorem State.setResult_gameState (s : State) (b : Bool) : (s.setResult b).gameState = s.gameState := rfl
@[simp] theorem State.setResult_snake (s : State) (b : Bool) : (s.setResult b).snake = s.snake := rfl
@[simp] theorem State.setResult_food (s : State) (b : Bool) : (s.setResult b).food = s.food := rfl
@[simp] theorem State.setResult_applied (s : State) (b : Bool) : (s.setResult b).applied = s.applied := rfl
@[simp] theorem State.setResult_intent (s : State) (b : Bool) : (s.setResult b).intent = s.intent := rfl
@[simp] theorem State.setResult_score (s : State) (b : Bool) : (s.setResult b).score = s.score := rfl
@[simp] theorem State.setResult_tickMs (s : State) (b : Bool) : (s.setResult b).tickMs = s.tickMs := rfl
@[simp] theorem State.setResult_okHeld (s : State) (b : Bool) : (s.setResult b).okHeld = s.okHeld := rfl
@[simp] theorem State.setResult_lastTick (s : State) (b : Bool) : (s.setResult b).lastTick = s.lastTick := rfl
@[simp] theorem State.setResult_result (s : State) (b : Bool) : (s.setResult b).result = b := rfl
@[simp] theorem State.setResult_fb (s : State) (b : Bool) : (s.setResult b).fb = s.fb := rfl
@[simp] theorem State.setResult_transport (s : State) (b : Bool) : (s.setResult b).transport = s.transport := rfl
@[simp] theorem State.setResult_stream (s : State) (b : Bool) : (s.setResult b).stream = s.stream := rfl
@[simp] theorem State.setResult_keyPort (s : State) (b : Bool) : (s.setResult b).keyPort = s.keyPort := rfl
@[simp] theorem State.setResult_clockPort (s : State) (b : Bool) : (s.setResult b).clockPort = s.clockPort := rfl
@[simp] theorem State.setResult_rndPort (s : State) (b : Bool) : (s.setResult b).rndPort = s.rndPort := rfl

/-! ### State.sendAll -/

@[simp] theorem State.sendAll_phase (s : State) (cs : List TransportCall) : (s.sendAll cs).phase = s.phase := rfl
@[simp] theorem State.sendAll_gameState (s : State) (cs : List TransportCall) : (s.sendAll cs).gameState = s.gameState := rfl
@[simp] theorem State.sendAll_snake (s : State) (cs : List TransportCall) : (s.sendAll cs).snake = s.snake := rfl
@[simp] theorem State.sendAll_food (s : State) (cs : List TransportCall) : (s.sendAll cs).food = s.food := rfl
@[simp] theorem State.sendAll_applied (s : State) (cs : List TransportCall) : (s.sendAll cs).applied = s.applied := rfl
@[simp] theorem State.sendAll_intent (s : State) (cs : List TransportCall) : (s.sendAll cs).intent = s.intent := rfl
@[simp] theorem State.sendAll_score (s : State) (cs : List TransportCall) : (s.sendAll cs).score = s.score := rfl
@[simp] theorem State.sendAll_tickMs (s : State) (cs : List TransportCall) : (s.sendAll cs).tickMs = s.tickMs := rfl
@[simp] theorem State.sendAll_okHeld (s : State) (cs : List TransportCall) : (s.sendAll cs).okHeld = s.okHeld := rfl
@[simp] theorem State.sendAll_lastTick (s : State) (cs : List TransportCall) : (s.sendAll cs).lastTick = s.lastTick := rfl
@[simp] theorem State.sendAll_result (s : State) (cs : List TransportCall) : (s.sendAll cs).result = s.result := rfl
@[simp] theorem State.sendAll_fb (s : State) (cs : List TransportCall) : (s.sendAll cs).fb = s.fb := rfl
@[simp] theorem State.sendAll_transport (s : State) (cs : List TransportCall) : (s.sendAll cs).transport = s.transport ++ cs := rfl
@[simp] theorem State.sendAll_stream (s : State) (cs : List TransportCall) : (s.sendAll cs).stream = s.stream := rfl
@[simp] theorem State.sendAll_keyPort (s : State) (cs : List TransportCall) : (s.sendAll cs).keyPort = s.keyPort := rfl
@[simp] theorem State.sendAll_clockPort (s : State) (cs : List TransportCall) : (s.sendAll cs).clockPort = s.clockPort := rfl
@[simp] theorem State.sendAll_rndPort (s : State) (cs : List TransportCall) : (s.sendAll cs).rndPort = s.rndPort := rfl

/-! ### State.withFetchWord -/

@[simp] theorem State.withFetchWord_phase (s : State) (n w : Nat) : (s.withFetchWord n w).phase = s.phase := rfl
@[simp] theorem State.withFetchWord_gameState (s : State) (n w : Nat) : (s.withFetchWord n w).gameState = s.gameState := rfl
@[simp] theorem State.withFetchWord_snake (s : State) (n w : Nat) : (s.withFetchWord n w).snake = s.snake := rfl
@[simp] theorem State.withFetchWord_food (s : State) (n w : Nat) : (s.withFetchWord n w).food = s.food := rfl
@[simp] theorem State.withFetchWord_applied (s : State) (n w : Nat) : (s.withFetchWord n w).applied = s.applied := rfl
@[simp] theorem State.withFetchWord_intent (s : State) (n w : Nat) : (s.withFetchWord n w).intent = s.intent := rfl
@[simp] theorem State.withFetchWord_score (s : State) (n w : Nat) : (s.withFetchWord n w).score = s.score := rfl
@[simp] theorem State.withFetchWord_tickMs (s : State) (n w : Nat) : (s.withFetchWord n w).tickMs = s.tickMs := rfl
@[simp] theorem State.withFetchWord_okHeld (s : State) (n w : Nat) : (s.withFetchWord n w).okHeld = s.okHeld := rfl
@[simp] theorem State.withFetchWord_lastTick (s : State) (n w : Nat) : (s.withFetchWord n w).lastTick = s.lastTick := rfl
@[simp] theorem State.withFetchWord_result (s : State) (n w : Nat) : (s.withFetchWord n w).result = s.result := rfl
@[simp] theorem State.withFetchWord_fb (s : State) (n w : Nat) : (s.withFetchWord n w).fb = s.fb := rfl
@[simp] theorem State.withFetchWord_transport (s : State) (n w : Nat) : (s.withFetchWord n w).transport = s.transport := rfl
@[simp] theorem State.withFetchWord_stream (s : State) (n w : Nat) : (s.withFetchWord n w).stream = tableBytes n w := rfl
@[simp] theorem State.withFetchWord_keyPort (s : State) (n w : Nat) : (s.withFetchWord n w).keyPort = s.keyPort := rfl
@[simp] theorem State.withFetchWord_clockPort (s : State) (n w : Nat) : (s.withFetchWord n w).clockPort = s.clockPort := rfl
@[simp] theorem State.withFetchWord_rndPort (s : State) (n w : Nat) : (s.withFetchWord n w).rndPort = s.rndPort := rfl

/-! ### enterGameOver -/

@[simp] theorem enterGameOver_phase (s : State) : (enterGameOver s).phase = s.phase := rfl
@[simp] theorem enterGameOver_gameState (s : State) : (enterGameOver s).gameState = .gameOver := rfl
@[simp] theorem enterGameOver_snake (s : State) : (enterGameOver s).snake = s.snake := rfl
@[simp] theorem enterGameOver_food (s : State) : (enterGameOver s).food = s.food := rfl
@[simp] theorem enterGameOver_applied (s : State) : (enterGameOver s).applied = s.applied := rfl
@[simp] theorem enterGameOver_intent (s : State) : (enterGameOver s).intent = s.intent := rfl
@[simp] theorem enterGameOver_score (s : State) : (enterGameOver s).score = s.score := rfl
@[simp] theorem enterGameOver_tickMs (s : State) : (enterGameOver s).tickMs = s.tickMs := rfl
@[simp] theorem enterGameOver_okHeld (s : State) : (enterGameOver s).okHeld = s.okHeld := rfl
@[simp] theorem enterGameOver_lastTick (s : State) : (enterGameOver s).lastTick = s.lastTick := rfl
@[simp] theorem enterGameOver_result (s : State) : (enterGameOver s).result = s.result := rfl
@[simp] theorem enterGameOver_fb (s : State) : (enterGameOver s).fb = s.fb := rfl
@[simp] theorem enterGameOver_transport (s : State) : (enterGameOver s).transport = s.transport := rfl
@[simp] theorem enterGameOver_stream (s : State) : (enterGameOver s).stream = s.stream := rfl
@[simp] theorem enterGameOver_keyPort (s : State) : (enterGameOver s).keyPort = s.keyPort := rfl
@[simp] theorem enterGameOver_clockPort (s : State) : (enterGameOver s).clockPort = s.clockPort := rfl
@[simp] theorem enterGameOver_rndPort (s : State) : (enterGameOver s).rndPort = s.rndPort := rfl

/-! ### placeFood -/

@[simp] theorem placeFood_phase (s : State) : (placeFood s).phase = s.phase := rfl
@[simp] theorem placeFood_gameState (s : State) : (placeFood s).gameState = s.gameState := rfl
@[simp] theorem placeFood_snake (s : State) : (placeFood s).snake = s.snake := rfl
@[simp] theorem placeFood_food (s : State) : (placeFood s).food = (chooseFood s.snake.cells s.rndPort).1 := rfl
@[simp] theorem placeFood_applied (s : State) : (placeFood s).applied = s.applied := rfl
@[simp] theorem placeFood_intent (s : State) : (placeFood s).intent = s.intent := rfl
@[simp] theorem placeFood_score (s : State) : (placeFood s).score = s.score := rfl
@[simp] theorem placeFood_tickMs (s : State) : (placeFood s).tickMs = s.tickMs := rfl
@[simp] theorem placeFood_okHeld (s : State) : (placeFood s).okHeld = s.okHeld := rfl
@[simp] theorem placeFood_lastTick (s : State) : (placeFood s).lastTick = s.lastTick := rfl
@[simp] theorem placeFood_result (s : State) : (placeFood s).result = s.result := rfl
@[simp] theorem placeFood_fb (s : State) : (placeFood s).fb = s.fb := rfl
@[simp] theorem placeFood_transport (s : State) : (placeFood s).transport = s.transport := rfl
@[simp] theorem placeFood_stream (s : State) : (placeFood s).stream = s.stream := rfl
@[simp] theorem placeFood_keyPort (s : State) : (placeFood s).keyPort = s.keyPort := rfl
@[simp] theorem placeFood_clockPort (s : State) : (placeFood s).clockPort = s.clockPort := rfl
@[simp] theorem placeFood_rndPort (s : State) : (placeFood s).rndPort = (chooseFood s.snake.cells s.rndPort).2 := rfl

/-! ### gameReset -/

@[simp] theorem gameReset_phase (s : State) : (gameReset s).phase = s.phase := rfl
@[simp] theorem gameReset_gameState (s : State) : (gameReset s).gameState = .running := rfl
@[simp] theorem gameReset_snake (s : State) : (gameReset s).snake = startSnake := rfl
@[simp] theorem gameReset_food (s : State) : (gameReset s).food = (chooseFood startSnake.cells s.rndPort).1 := rfl
@[simp] theorem gameReset_applied (s : State) : (gameReset s).applied = .right := rfl
@[simp] theorem gameReset_intent (s : State) : (gameReset s).intent = .right := rfl
@[simp] theorem gameReset_score (s : State) : (gameReset s).score = 0 := rfl
@[simp] theorem gameReset_tickMs (s : State) : (gameReset s).tickMs = Config.tickBase := rfl
@[simp] theorem gameReset_okHeld (s : State) : (gameReset s).okHeld = s.okHeld := rfl
@[simp] theorem gameReset_lastTick (s : State) : (gameReset s).lastTick = s.lastTick := rfl
@[simp] theorem gameReset_result (s : State) : (gameReset s).result = s.result := rfl
@[simp] theorem gameReset_fb (s : State) : (gameReset s).fb = s.fb := rfl
@[simp] theorem gameReset_transport (s : State) : (gameReset s).transport = s.transport := rfl
@[simp] theorem gameReset_stream (s : State) : (gameReset s).stream = s.stream := rfl
@[simp] theorem gameReset_keyPort (s : State) : (gameReset s).keyPort = s.keyPort := rfl
@[simp] theorem gameReset_clockPort (s : State) : (gameReset s).clockPort = s.clockPort := rfl
@[simp] theorem gameReset_rndPort (s : State) : (gameReset s).rndPort = (chooseFood startSnake.cells s.rndPort).2 := rfl

/-! ### eatFood -/

@[simp] theorem eatFood_phase (t : Point) (s : State) : (eatFood t s).phase = s.phase := rfl
@[simp] theorem eatFood_gameState (t : Point) (s : State) : (eatFood t s).gameState = s.gameState := rfl
@[simp] theorem eatFood_snake (t : Point) (s : State) : (eatFood t s).snake = growBody Config.snakeCap t s.snake := rfl
@[simp] theorem eatFood_food (t : Point) (s : State) : (eatFood t s).food = (chooseFood (growBody Config.snakeCap t s.snake).cells s.rndPort).1 := rfl
@[simp] theorem eatFood_applied (t : Point) (s : State) : (eatFood t s).applied = s.applied := rfl
@[simp] theorem eatFood_intent (t : Point) (s : State) : (eatFood t s).intent = s.intent := rfl
@[simp] theorem eatFood_score (t : Point) (s : State) : (eatFood t s).score = s.score + 1 := rfl
@[simp] theorem eatFood_tickMs (t : Point) (s : State) : (eatFood t s).tickMs = fasterTick s.tickMs := rfl
@[simp] theorem eatFood_okHeld (t : Point) (s : State) : (eatFood t s).okHeld = s.okHeld := rfl
@[simp] theorem eatFood_lastTick (t : Point) (s : State) : (eatFood t s).lastTick = s.lastTick := rfl
@[simp] theorem eatFood_result (t : Point) (s : State) : (eatFood t s).result = s.result := rfl
@[simp] theorem eatFood_fb (t : Point) (s : State) : (eatFood t s).fb = s.fb := rfl
@[simp] theorem eatFood_transport (t : Point) (s : State) : (eatFood t s).transport = s.transport := rfl
@[simp] theorem eatFood_stream (t : Point) (s : State) : (eatFood t s).stream = s.stream := rfl
@[simp] theorem eatFood_keyPort (t : Point) (s : State) : (eatFood t s).keyPort = s.keyPort := rfl
@[simp] theorem eatFood_clockPort (t : Point) (s : State) : (eatFood t s).clockPort = s.clockPort := rfl
@[simp] theorem eatFood_rndPort (t : Point) (s : State) : (eatFood t s).rndPort = (chooseFood (growBody Config.snakeCap t s.snake).cells s.rndPort).2 := rfl

/-! ### renderState -/

@[simp] theorem renderState_phase (s : State) : (renderState s).phase = s.phase := rfl
@[simp] theorem renderState_gameState (s : State) : (renderState s).gameState = s.gameState := rfl
@[simp] theorem renderState_snake (s : State) : (renderState s).snake = s.snake := rfl
@[simp] theorem renderState_food (s : State) : (renderState s).food = s.food := rfl
@[simp] theorem renderState_applied (s : State) : (renderState s).applied = s.applied := rfl
@[simp] theorem renderState_intent (s : State) : (renderState s).intent = s.intent := rfl
@[simp] theorem renderState_score (s : State) : (renderState s).score = s.score := rfl
@[simp] theorem renderState_tickMs (s : State) : (renderState s).tickMs = s.tickMs := rfl
@[simp] theorem renderState_okHeld (s : State) : (renderState s).okHeld = s.okHeld := rfl
@[simp] theorem renderState_lastTick (s : State) : (renderState s).lastTick = s.lastTick := rfl
@[simp] theorem renderState_result (s : State) : (renderState s).result = s.result := rfl
@[simp] theorem renderState_fb (s : State) : (renderState s).fb = renderFb s.gameState s.score s.food s.snake.cells := rfl
@[simp] theorem renderState_transport (s : State) : (renderState s).transport = s.transport := rfl
@[simp] theorem renderState_stream (s : State) : (renderState s).stream = s.stream := rfl
@[simp] theorem renderState_keyPort (s : State) : (renderState s).keyPort = s.keyPort := rfl
@[simp] theorem renderState_clockPort (s : State) : (renderState s).clockPort = s.clockPort := rfl
@[simp] theorem renderState_rndPort (s : State) : (renderState s).rndPort = s.rndPort := rfl

/-! ### flushState -/

@[simp] theorem flushState_phase (s : State) : (flushState s).phase = s.phase := rfl
@[simp] theorem flushState_gameState (s : State) : (flushState s).gameState = s.gameState := rfl
@[simp] theorem flushState_snake (s : State) : (flushState s).snake = s.snake := rfl
@[simp] theorem flushState_food (s : State) : (flushState s).food = s.food := rfl
@[simp] theorem flushState_applied (s : State) : (flushState s).applied = s.applied := rfl
@[simp] theorem flushState_intent (s : State) : (flushState s).intent = s.intent := rfl
@[simp] theorem flushState_score (s : State) : (flushState s).score = s.score := rfl
@[simp] theorem flushState_tickMs (s : State) : (flushState s).tickMs = s.tickMs := rfl
@[simp] theorem flushState_okHeld (s : State) : (flushState s).okHeld = s.okHeld := rfl
@[simp] theorem flushState_lastTick (s : State) : (flushState s).lastTick = s.lastTick := rfl
@[simp] theorem flushState_result (s : State) : (flushState s).result = s.result := rfl
@[simp] theorem flushState_fb (s : State) : (flushState s).fb = s.fb := rfl
@[simp] theorem flushState_transport (s : State) : (flushState s).transport = s.transport ++ flushCalls s.fb := rfl
@[simp] theorem flushState_stream (s : State) : (flushState s).stream = s.stream := rfl
@[simp] theorem flushState_keyPort (s : State) : (flushState s).keyPort = s.keyPort := rfl
@[simp] theorem flushState_clockPort (s : State) : (flushState s).clockPort = s.clockPort := rfl
@[simp] theorem flushState_rndPort (s : State) : (flushState s).rndPort = s.rndPort := rfl

end Sys2Proof.Machine
end

