-- ==== Sys2Proof/Laws/Game.lean ====
section
/-! SUPPORT. What the shared game operations do, said once each: ports, food placement, the new head, the tick. -/

namespace Sys2Proof.Machine

/-! ### Ports -/

/-- A call answers the port's next answer and moves the port on by one. -/
theorem Port.next_eq {α : Type} (free : Nat → α) (p : Port α) :
    p.next free = (p.answer free 0, p.after 1) := by
  obtain ⟨pending, taken⟩ := p
  cases pending <;> simp [Port.next, Port.answer, Port.after]

theorem Port.answer_after {α : Type} (free : Nat → α) (p : Port α) (n k : Nat) :
    (p.after n).answer free k = p.answer free (n + k) := by
  simp [Port.answer, Port.after, Nat.add_assoc]

theorem Port.after_after {α : Type} (p : Port α) (n k : Nat) : (p.after n).after k = p.after (n + k) := by
  simp [Port.after, Nat.add_assoc]

theorem Port.after_zero {α : Type} (p : Port α) : p.after 0 = p := by
  simp [Port.after]

/-! ### The grid -/

theorem occ_iff {body : List Point} {c : Point} : occ body c = true ↔ c ∈ body := by
  simp [occ]

theorem inGrid_pointOf {x y : Nat} (hx : x < 33) (hy : y < 10) : InGrid (pointOf x y) := by
  simp only [InGrid, pointOf, BitVec.toNat_ofNat, Config.COLS_eq, Config.ROWS_eq]
  omega

theorem inGrid_pointOfCell (c : Config.GridCell) : InGrid (pointOfCell c) := inGrid_pointOf c.1.isLt c.2.isLt

theorem mem_gridCells {p : Point} : p ∈ gridCells ↔ InGrid p := by
  unfold gridCells
  rw [List.mem_flatMap]
  constructor
  · rintro ⟨y, hy, hp⟩
    obtain ⟨x, hx, rfl⟩ := List.mem_map.1 hp
    exact inGrid_pointOf (List.mem_range.1 hx) (List.mem_range.1 hy)
  · rintro ⟨hx, hy⟩
    refine ⟨p.y.toNat, List.mem_range.2 hy, List.mem_map.2 ⟨p.x.toNat, List.mem_range.2 hx, ?_⟩⟩
    simp [pointOf]

/-- The new head lies in the grid, wherever the old head was (R141). -/
theorem inGrid_newHead (h : Point) (d : Direction) : InGrid (newHead h d) := by
  have hx := Int.emod_nonneg ((h.x.toNat : Int) + d.dx) (show (33 : Int) ≠ 0 by decide)
  have hx' := Int.emod_lt_of_pos ((h.x.toNat : Int) + d.dx) (show (0 : Int) < 33 by decide)
  have hy := Int.emod_nonneg ((h.y.toNat : Int) + d.dy) (show (10 : Int) ≠ 0 by decide)
  have hy' := Int.emod_lt_of_pos ((h.y.toNat : Int) + d.dy) (show (0 : Int) < 10 by decide)
  simp only [InGrid, newHead, BitVec.toNat_ofInt, Config.COLS_eq, Config.ROWS_eq]
  omega

/-! ### Food placement (R133) -/

/-- What the random attempts can come to: the first free draw, or no free draw among all attempts. -/
theorem drawFree_cases (body : List Point) (n : Nat) (p : Port Config.GridCell) :
    (∃ k < n, (∀ j < k, pointOfCell (p.answer Config.rndCell j) ∈ body) ∧
        pointOfCell (p.answer Config.rndCell k) ∉ body ∧
        drawFree body n p = (some (pointOfCell (p.answer Config.rndCell k)), p.after (k + 1))) ∨
      ((∀ j < n, pointOfCell (p.answer Config.rndCell j) ∈ body) ∧ drawFree body n p = (none, p.after n)) := by
  induction n generalizing p with
  | zero => exact .inr ⟨fun j hj => absurd hj (by omega), by simp [drawFree, Port.after_zero]⟩
  | succ n ih =>
    by_cases h : pointOfCell (p.answer Config.rndCell 0) ∈ body
    · have hd : drawFree body (n + 1) p = drawFree body n (p.after 1) := by
        simp [drawFree, Port.next_eq, occ, h]
      rcases ih (p.after 1) with ⟨k, hk, hocc, hfree, he⟩ | ⟨hocc, he⟩
      · refine .inl ⟨k + 1, by omega, fun j hj => ?_, ?_, ?_⟩
        · cases j with
          | zero => exact h
          | succ j => simpa [Port.answer_after, Nat.add_comm] using hocc j (by omega)
        · simpa [Port.answer_after, Nat.add_comm] using hfree
        · rw [hd, he, Port.answer_after, Port.after_after]
          simp [Nat.add_comm, Nat.add_left_comm]
      · refine .inr ⟨fun j hj => ?_, ?_⟩
        · cases j with
          | zero => exact h
          | succ j => simpa [Port.answer_after, Nat.add_comm] using hocc j (by omega)
        · rw [hd, he, Port.after_after, Nat.add_comm]
    · refine .inl ⟨0, by omega, fun j hj => absurd hj (by omega), h, ?_⟩
      simp [drawFree, Port.next_eq, occ, h]

/-- What food placement can come to: the first free draw, else the first free cell of the scan, else a free value. -/
theorem chooseFood_cases (body : List Point) (p : Port Config.GridCell) :
    (∃ k < 100, (∀ j < k, pointOfCell (p.answer Config.rndCell j) ∈ body) ∧
        pointOfCell (p.answer Config.rndCell k) ∉ body ∧
        chooseFood body p = (pointOfCell (p.answer Config.rndCell k), p.after (k + 1))) ∨
      ((∀ j < 100, pointOfCell (p.answer Config.rndCell j) ∈ body) ∧
        ((∃ c, firstFree body = some c ∧ chooseFood body p = (c, p.after 100)) ∨
          (firstFree body = none ∧
            chooseFood body p = (pointOfCell (Config.fullGridFood (p.taken + 100)), p.after 100)))) := by
  rcases drawFree_cases body 100 p with ⟨k, hk, hocc, hfree, he⟩ | ⟨hocc, he⟩
  · exact .inl ⟨k, hk, hocc, hfree, by simp [chooseFood, Config.FOOD_TRIES_eq, he]⟩
  · refine .inr ⟨hocc, ?_⟩
    cases hf : firstFree body with
    | some c => exact .inl ⟨c, rfl, by simp [chooseFood, Config.FOOD_TRIES_eq, he, hf]⟩
    | none => exact .inr ⟨rfl, by simp [chooseFood, Config.FOOD_TRIES_eq, he, hf, Port.after]⟩

theorem firstFree_some {body : List Point} {c : Point} (h : firstFree body = some c) : InGrid c ∧ c ∉ body := by
  refine ⟨mem_gridCells.1 (List.mem_of_find?_eq_some h), ?_⟩
  simpa [occ] using List.find?_some h

theorem firstFree_none {body : List Point} (h : firstFree body = none) {c : Point} (hc : InGrid c) : c ∈ body := by
  simpa [occ] using List.find?_eq_none.1 h c (mem_gridCells.2 hc)

/-- FOOD always lies in the grid after food placement. -/
theorem chooseFood_inGrid (body : List Point) (p : Port Config.GridCell) : InGrid (chooseFood body p).1 := by
  rcases chooseFood_cases body p with ⟨k, _, _, _, he⟩ | ⟨_, ⟨c, hc, he⟩ | ⟨_, he⟩⟩ <;> rw [he]
  · exact inGrid_pointOfCell _
  · exact (firstFree_some hc).1
  · exact inGrid_pointOfCell _

/-! ### The tick (R140) -/

/-- What a tick that is not refused can come to. -/
theorem tickState_cases (s : State) :
    (s.gameState ≠ .running ∧ tickState s = s) ∨
      (s.gameState = .running ∧ tickHead s ∈ s.snake.cells ∧
        tickState s = { s with applied := appliedAfter s.applied s.intent, gameState := .gameOver }) ∨
      (s.gameState = .running ∧ tickHead s ∉ s.snake.cells ∧ tickHead s ≠ s.food ∧
        tickState s =
          { s with applied := appliedAfter s.applied s.intent, snake := moveBody s.snake (tickHead s) }) ∨
      (s.gameState = .running ∧ tickHead s ∉ s.snake.cells ∧ tickHead s = s.food ∧
        tickState s = eatFood s.snake.last
          { s with applied := appliedAfter s.applied s.intent, snake := moveBody s.snake (tickHead s) }) := by
  cases hg : s.gameState
  case paused => exact .inl ⟨by decide, by simp [tickState, hg]⟩
  case gameOver => exact .inl ⟨by decide, by simp [tickState, hg]⟩
  refine .inr ?_
  by_cases hocc : tickHead s ∈ s.snake.cells
  · exact .inl ⟨rfl, hocc, by simp [tickState, hg, occ, hocc, enterGameOver]⟩
  have hocc' : occ s.snake.cells (tickHead s) = false := by simpa [occ] using hocc
  refine .inr ?_
  by_cases hf : tickHead s = s.food
  · refine .inr ⟨rfl, hocc, hf, ?_⟩
    unfold tickState
    rw [hg]
    simp only [hocc', Bool.false_eq_true, if_false, if_pos hf]
  · refine .inl ⟨rfl, hocc, hf, ?_⟩
    unfold tickState
    rw [hg]
    simp only [hocc', Bool.false_eq_true, if_false, if_neg hf]

/-- The segments before the last, and the last, make up the body. -/
theorem Snake.dropLast_append_last (b : Snake) : b.cells.dropLast ++ [b.last] = b.cells := by
  obtain ⟨h, t⟩ := b
  induction t generalizing h with
  | nil => rfl
  | cons a t ih =>
    have := ih a
    simp only [Snake.cells, Snake.last, List.getLastD_cons, List.dropLast_cons_cons, List.cons_append] at this ⊢
    rw [this]

end Sys2Proof.Machine
end

