-- ==== Sys2Proof/Laws/PerInstr.lean ====
section
/-! SUPPORT. A fact about every instruction, one lemma per constructor: the length that R71 reads off the bytes of an
encoded instruction is the number of those bytes. -/

namespace Sys2Proof.Laws.EncodedLength

/-- A well-formed instruction's encoding has the length that R71 gives it. -/
def Statement (i : Instr) : Prop := i.WellFormed → opLength (encode i) = some (encode i).length

theorem clearBuffer : Statement .clearBuffer := fun _ => rfl

theorem setPixel (x y : Byte) (on : Bool) : Statement (.setPixel x y on) := fun _ => rfl

theorem getPixel (x y : Byte) : Statement (.getPixel x y) := fun _ => rfl

theorem drawHLine (x0 x1 y : Byte) : Statement (.drawHLine x0 x1 y) := fun _ => rfl

theorem drawVLine (x y0 y1 : Byte) : Statement (.drawVLine x y0 y1) := fun _ => rfl

theorem drawLine (x0 y0 x1 y1 : Byte) : Statement (.drawLine x0 y0 x1 y1) := fun _ => rfl

theorem drawRect (x y w h : Byte) : Statement (.drawRect x y w h) := fun _ => rfl

theorem fillRect (x y w h : Byte) : Statement (.fillRect x y w h) := fun _ => rfl

theorem drawCircle (cx cy r : Byte) : Statement (.drawCircle cx cy r) := fun _ => rfl

theorem drawTriangle (x0 y0 x1 y1 x2 y2 : Byte) : Statement (.drawTriangle x0 y0 x1 y1 x2 y2) := fun _ => rfl

theorem fillTriangle (x0 y0 x1 y1 x2 y2 : Byte) : Statement (.fillTriangle x0 y0 x1 y1 x2 y2) := fun _ => rfl

theorem drawChar (page col char : Byte) (font : Font) (spacing : Byte) : Statement (.drawChar page col char font spacing) := fun _ => rfl

theorem drawText (page col : Byte) (text : List Byte) (font : Font) : Statement (.drawText page col text font) := by
  intro hw
  have hl : text.length ≤ 255 := by simpa [Instr.WellFormed, Instr.wellFormed] using hw
  have hn : (BitVec.ofNat 8 text.length).toNat = text.length := by
    rw [BitVec.toNat_ofNat]
    omega
  show some (5 + (BitVec.ofNat 8 text.length).toNat) = some (text.length + 5)
  rw [hn, Nat.add_comm]

theorem drawNumber (page col : Byte) (value : Word) (font : Font) : Statement (.drawNumber page col value font) := fun _ => rfl

theorem drawBitmap (x y : Byte) (bitmap : List Byte) (w h : Byte) : Statement (.drawBitmap x y bitmap w h) := by
  intro hw
  have hl : bitmap.length = bitmapBytes w h := by simpa [Instr.WellFormed, Instr.wellFormed] using hw
  show some (5 + bitmapBytes w h) = some (bitmap.length + 5)
  rw [hl, Nat.add_comm]

theorem gameReset : Statement .gameReset := fun _ => rfl

theorem pollInput (key : Byte) : Statement (.pollInput key) := fun _ => rfl

theorem tick : Statement .tick := fun _ => rfl

theorem render : Statement .render := fun _ => rfl

theorem flush : Statement .flush := fun _ => rfl

theorem placeFood : Statement .placeFood := fun _ => rfl

theorem loopIteration : Statement .loopIteration := fun _ => rfl

end Sys2Proof.Laws.EncodedLength
end

