-- ==== Sys2Proof/Laws/Step.lean ====
section
/-! SUPPORT. What a step, a phase and a loop pass can come to, said once each. -/

namespace Sys2Proof.Machine

/-- The tick test on natural numbers: the elapsed time modulo 2^32 against the interval (R162). -/
theorem tickDue_iff (now lastTick : Word) (tickMs : Half) :
    tickDue now lastTick tickMs = true ↔ tickMs.toNat ≤ (now.toNat + 2 ^ 32 - lastTick.toNat) % 2 ^ 32 := by
  have h1 := now.isLt
  have h2 := lastTick.isLt
  simp only [tickDue, decide_eq_true_eq, BitVec.toNat_sub]
  constructor <;> intro h <;> omega

/-- What the INPUT phase does: the key answered is taken off the port and polled (R161). -/
theorem inputPhase_eq (s : State) :
    inputPhase s = { pollKey (keyOfCode ((s.keyPort.answer Config.keyRead 0).setWidth 8))
      { s with keyPort := s.keyPort.after 1 } with phase := .step } := by
  simp only [inputPhase, Port.next_eq]

/-- What the STEP phase can come to: a refused eating tick, a tick, or no tick (R162). -/
theorem stepPhase_cases (s : State) :
    (tickDue (s.clockPort.answer Config.clockRead 0) s.lastTick s.tickMs = true ∧
        scoreOverflow { s with
          clockPort := s.clockPort.after 1, lastTick := s.clockPort.answer Config.clockRead 0 } = true ∧
        stepPhase s = .refused .scoreOverflow) ∨
      (tickDue (s.clockPort.answer Config.clockRead 0) s.lastTick s.tickMs = true ∧
        scoreOverflow { s with
          clockPort := s.clockPort.after 1, lastTick := s.clockPort.answer Config.clockRead 0 } = false ∧
        stepPhase s = .next { tickState { s with
          clockPort := s.clockPort.after 1, lastTick := s.clockPort.answer Config.clockRead 0 } with
            phase := .render }) ∨
      (tickDue (s.clockPort.answer Config.clockRead 0) s.lastTick s.tickMs = false ∧
        stepPhase s = .next { s with clockPort := s.clockPort.after 1, phase := .render }) := by
  cases hd : tickDue (s.clockPort.answer Config.clockRead 0) s.lastTick s.tickMs
  · exact .inr (.inr ⟨rfl, by simp [stepPhase, Port.next_eq, hd]⟩)
  · cases ho : scoreOverflow { s with
        clockPort := s.clockPort.after 1, lastTick := s.clockPort.answer Config.clockRead 0 }
    · exact .inr (.inl ⟨rfl, rfl, by simp [stepPhase, Port.next_eq, hd, ho]⟩)
    · exact .inl ⟨rfl, rfl, by simp [stepPhase, Port.next_eq, hd, ho]⟩

/-- What a step that answers a next state can come to: one phase of the loop, or the decoded operation. -/
theorem step_cases {s t : State} (h : step s = .next t) :
    (s.stream = [] ∧ loopPhase s = .next t) ∨
      ∃ i rest, decode s.stream = .ok (i, rest) ∧ exec i { s with stream := rest } = .next t := by
  unfold step at h
  split at h
  · exact .inl ⟨by assumption, h⟩
  · rename_i b bs hs
    split at h
    · rename_i i rest hd
      exact .inr ⟨i, rest, by rw [hs, hd], h⟩
    · cases h

/-- An eating tick at SCORE = 65535 is all that `scoreOverflow` says. -/
theorem scoreOverflow_iff (s : State) :
    scoreOverflow s = true ↔
      s.score = 65535 ∧ s.gameState = .running ∧ tickHead s ∉ s.snake.cells ∧ tickHead s = s.food := by
  simp [scoreOverflow, tickEats, occ, and_assoc]

end Sys2Proof.Machine
end

