-- ==== Sys2Proof/Machine/Assembler.lean ====
section
/-! DEFINITION. The textual form of an operation: its call syntax (30_encoding.md R72). Numbers are written in decimal, `on`
as true or false, keys and fonts by name. -/

namespace Sys2Proof.Machine

/-- A byte operand in decimal. -/
def byteText (b : Byte) : String := toString b.toNat

/-- A font by its name. -/
def fontText : Font → String
  | .compact => "Compact"
  | .standard => "Standard"

/-- A key by its name, an other key by its code. -/
def keyText (b : Byte) : String :=
  match keyOfCode b with
  | .none => "None"
  | .up => "Up"
  | .down => "Down"
  | .left => "Left"
  | .right => "Right"
  | .ok => "Ok"
  | .other => byteText b

/-- A double-quoted string of bytes. -/
def quotedText (bs : List Byte) : String := "\"" ++ String.ofList (bs.map fun b => Char.ofNat b.toNat) ++ "\""

/-- Operands between parentheses, separated by commas. -/
def callText (name : String) (args : List String) : String := name ++ "(" ++ String.intercalate "," args ++ ")"

/-- The assembler text of an instruction (R72). -/
def assemblerText : Instr → String
  | .clearBuffer => callText "clearBuffer" []
  | .setPixel x y on => callText "setPixel" [byteText x, byteText y, if on then "true" else "false"]
  | .getPixel x y => callText "getPixel" [byteText x, byteText y]
  | .drawHLine x0 x1 y => callText "drawHLine" ([x0, x1, y].map byteText)
  | .drawVLine x y0 y1 => callText "drawVLine" ([x, y0, y1].map byteText)
  | .drawLine x0 y0 x1 y1 => callText "drawLine" ([x0, y0, x1, y1].map byteText)
  | .drawRect x y w h => callText "drawRect" ([x, y, w, h].map byteText)
  | .fillRect x y w h => callText "fillRect" ([x, y, w, h].map byteText)
  | .drawCircle cx cy r => callText "drawCircle" ([cx, cy, r].map byteText)
  | .drawTriangle x0 y0 x1 y1 x2 y2 => callText "drawTriangle" ([x0, y0, x1, y1, x2, y2].map byteText)
  | .fillTriangle x0 y0 x1 y1 x2 y2 => callText "fillTriangle" ([x0, y0, x1, y1, x2, y2].map byteText)
  | .drawChar page col char font spacing =>
    callText "drawChar" [byteText page, byteText col, byteText char, fontText font, byteText spacing]
  | .drawText page col text font => callText "drawText" [byteText page, byteText col, quotedText text, fontText font]
  | .drawNumber page col value font =>
    callText "drawNumber" [byteText page, byteText col, toString value.toInt, fontText font]
  | .drawBitmap x y bitmap w h =>
    callText "drawBitmap"
      [byteText x, byteText y, "[" ++ String.intercalate "," (bitmap.map byteText) ++ "]", byteText w, byteText h]
  | .gameReset => callText "gameReset" []
  | .pollInput key => callText "pollInput" [keyText key]
  | .tick => callText "tick" []
  | .render => callText "render" []
  | .flush => callText "flush" []
  | .placeFood => callText "placeFood" []
  | .loopIteration => callText "loopIteration" []

end Sys2Proof.Machine
end

