-- ==== Sys2Proof/Tests/Slice0.lean ====
section
/-! SUPPORT. The model's own tests: ill-formed terms refused, words decoded, one step of each instruction on values taken from
95_test_vectors.md, and a witness for each statement that has hypotheses. -/

namespace Sys2Proof.Tests

open Sys2Proof Sys2Proof.Machine

/-! ### Helpers -/

/-- The game of vector G1, its Clock registers as in section 10, with nothing written to the PixelBuffer. -/
def game : State where
  phase := .input
  gameState := .running
  snake := ⟨⟨16, 5⟩, [⟨15, 5⟩, ⟨14, 5⟩]⟩
  food := ⟨20, 5⟩
  applied := .right
  intent := .right
  score := 0
  tickMs := 200
  okHeld := false
  lastTick := 1000
  result := false
  fb := []
  transport := []
  stream := []
  keyPort := ⟨[], 0⟩
  clockPort := ⟨[], 0⟩
  rndPort := ⟨[], 0⟩

/-- `game` with the listed PixelBuffer bytes cleared. -/
def zeroed (as : List Nat) : State := { game with fb := as.map fun a => (a, 0) }

/-- `game` with cells for the Rnd port to answer. -/
def drawing (cs : List Config.GridCell) : State := { game with rndPort := ⟨cs, 0⟩ }

/-- What `f` reads of the state that an outcome answers. -/
def see {α : Type} (f : State → α) : Host.Outcome State Fault Refusal → Option α
  | .next t => some (f t)
  | .fault _ => none
  | .refused _ => none

/-- Whether an outcome is the given refusal. -/
def refusedAs (r : Refusal) : Host.Outcome State Fault Refusal → Bool
  | .refused r' => decide (r' = r)
  | .next _ => false
  | .fault _ => false

/-- The bytes at the given addresses after an instruction. -/
def bytesAfter (i : Instr) (s : State) (as : List Nat) : Option (List Byte) :=
  see (fun t => as.map (readByte t.fb)) (exec i s)

/-- The instruction and the number of bytes left, where a byte sequence decodes. -/
def read (bs : List Byte) : Option (Instr × Nat) :=
  match decode bs with
  | .ok (i, rest) => some (i, rest.length)
  | .error _ => none

/-- Why a byte sequence does not decode. -/
def readError (bs : List Byte) : Option DecodeError :=
  match decode bs with
  | .ok _ => none
  | .error e => some e

/-! ### WellFormed smoke (R67, R68) -/

theorem test_wf_text_too_long : ¬ (Instr.drawText 0 0 (List.replicate 256 0x41) .compact).WellFormed := by
  decide +kernel
theorem test_wf_text_longest : (Instr.drawText 0 0 (List.replicate 255 0x41) .compact).WellFormed := by
  decide +kernel
theorem test_wf_bitmap_short : ¬ (Instr.drawBitmap 0 0 [1, 2, 3] 2 9).WellFormed := by decide
theorem test_wf_bitmap_long : ¬ (Instr.drawBitmap 0 0 [1, 2, 3, 4, 5] 2 9).WellFormed := by decide
theorem test_wf_bitmap : (Instr.drawBitmap 0 0 [1, 2, 3, 4] 2 9).WellFormed := by decide

/-! ### Decoding: words written out from R62 and R63, and 95_test_vectors.md section 13 -/

theorem test_decode_clearBuffer : read [0x00] = some (.clearBuffer, 0) := by decide
theorem test_decode_setPixel : read [0x01, 0x83, 0x2F, 0x01] = some (.setPixel 131 47 true, 0) := by decide
theorem test_decode_setPixel_two : read [0x01, 3, 3, 0x02] = some (.setPixel 3 3 true, 0) := by decide
/-- R64: every non-zero byte is true, 0 is false. -/
theorem test_decode_setPixel_ends :
    read [0x01, 3, 3, 0xFF] = some (.setPixel 3 3 true, 0) ∧ read [0x01, 3, 3, 0] = some (.setPixel 3 3 false, 0) := by
  decide
theorem test_decode_getPixel : read [0x02, 3, 4] = some (.getPixel 3 4, 0) := by decide
theorem test_decode_drawHLine : read [0x03, 2, 6, 3] = some (.drawHLine 2 6 3, 0) := by decide
theorem test_decode_drawVLine : read [0x04, 7, 6, 9] = some (.drawVLine 7 6 9, 0) := by decide
theorem test_decode_drawLine : read [0x05, 0x00, 0x00, 0x05, 0x00] = some (.drawLine 0 0 5 0, 0) := by decide
theorem test_decode_drawRect : read [0x06, 0, 8, 132, 40, 0x23] = some (.drawRect 0 8 132 40, 1) := by decide
theorem test_decode_fillRect : read [0x07, 0x00, 0x10, 0x0C, 0x08] = some (.fillRect 0 16 12 8, 0) := by decide
theorem test_decode_drawCircle : read [0x08, 0x42, 0x18, 0x1E] = some (.drawCircle 66 24 30, 0) := by decide
theorem test_decode_drawTriangle : read [0x09, 1, 2, 3, 4, 5, 6] = some (.drawTriangle 1 2 3 4 5 6, 0) := by decide
theorem test_decode_fillTriangle :
    read [0x0A, 0x0A, 0x05, 0x03, 0x01, 0x07, 0x09] = some (.fillTriangle 10 5 3 1 7 9, 0) := by decide
theorem test_decode_drawChar :
    read [0x10, 0x02, 0x0A, 0x41, 0x01, 0x07] = some (.drawChar 2 10 0x41 .standard 7, 0) := by decide
theorem test_decode_drawText : read [0x11, 0x00, 0x78, 0x01, 0x03, 0x41, 0x42, 0x43] =
    some (.drawText 0 120 [0x41, 0x42, 0x43] .standard, 0) := by decide
theorem test_decode_drawText_empty : read [0x11, 0x03, 0x05, 0x00, 0x00] = some (.drawText 3 5 [] .compact, 0) := by
  decide
theorem test_decode_drawNumber :
    read [0x12, 0x04, 0x00, 0x01, 0xFF, 0xFF, 0x00, 0x00] = some (.drawNumber 4 0 65535 .standard, 0) := by decide
theorem test_decode_drawNumber_negative :
    read [0x12, 0x00, 0x00, 0x00, 0xD6, 0xFF, 0xFF, 0xFF] = some (.drawNumber 0 0 (BitVec.ofInt 32 (-42)) .compact, 0) := by
  decide
theorem test_decode_drawBitmap : read [0x18, 0x0A, 0x10, 0x03, 0x10, 0x01, 0x02, 0x04, 0x80, 0x40, 0x20] =
    some (.drawBitmap 10 16 [1, 2, 4, 0x80, 0x40, 0x20] 3 16, 0) := by decide
theorem test_decode_drawBitmap_part : read [0x18, 0x00, 0x00, 0x01, 0x03, 0xFF] =
    some (.drawBitmap 0 0 [0xFF] 1 3, 0) := by decide
theorem test_decode_gameReset : read [0x20] = some (.gameReset, 0) := by decide
theorem test_decode_pollInput : read [0x21, 0x09] = some (.pollInput 9, 0) := by decide
theorem test_decode_tick : read [0x22] = some (.tick, 0) := by decide
theorem test_decode_render : read [0x23] = some (.render, 0) := by decide
theorem test_decode_flush : read [0x24] = some (.flush, 0) := by decide
theorem test_decode_placeFood : read [0x25] = some (.placeFood, 0) := by decide
theorem test_decode_loopIteration : read [0x26] = some (.loopIteration, 0) := by decide
theorem test_refuse_opcode : readError [0x0B] = some .reservedOpcode := by decide
theorem test_refuse_font : readError [0x10, 0x00, 0x00, 0x41, 0x02, 0x01] = some .reservedFont := by decide
theorem test_refuse_truncated : readError [0x05, 0x00, 0x00] = some .truncated := by decide
theorem test_refuse_truncated_text : readError [0x11, 0x00, 0x00, 0x00, 0x03, 0x41] = some .truncated := by decide
/-- The bytes of program 4 of section 12 are five operations. -/
theorem test_decode_program_head : read [0x00, 0x07, 0x00, 0x10, 0x0C, 0x08] = some (.clearBuffer, 5) := by decide
/-- The bits of a row in the table's numbering: the opcode byte is bits 7..0, further bytes are 0. -/
theorem test_table_word : decodeTableWord 8 0x05 = some (.drawLine 0 0 0 0) := by decide
theorem test_table_word_long : decodeTableWord 16 0x0921 = some (.pollInput 9) := by decide
theorem test_table_word_reserved : decodeTableWord 8 0x27 = none := by decide
theorem test_fetch_word : (State.reset.withFetchWord 8 0x12).stream = [0x12, 0, 0, 0, 0, 0, 0, 0] := by decide

/-- R72: the call syntax of an operation. -/
theorem test_assembler :
    assemblerText (.drawChar 2 10 0x41 .standard 1) = "drawChar(2,10,65,Standard,1)" ∧
      assemblerText (.pollInput 5) = "pollInput(Ok)" := by decide

/-! ### Drawing: 95_test_vectors.md sections 2 to 6 -/

theorem test_clearBuffer : bytesAfter .clearBuffer game [0, 400, 791] = some [0, 0, 0] := by
  decide +kernel
/-- P3. -/
theorem test_setPixel : bytesAfter (.setPixel 5 10 true) (zeroed [5, 137]) [5, 137] = some [0, 4] := by decide
/-- P6. -/
theorem test_setPixel_clears : bytesAfter (.setPixel 5 11 false) { game with fb := [(137, 0x0C)] } [137] = some [4] := by
  decide
/-- P4. -/
theorem test_getPixel : see State.result (exec (.getPixel 5 10) { game with fb := [(137, 4)] }) = some true := by decide
/-- P8. -/
theorem test_getPixel_outside : see State.result (exec (.getPixel 132 0) { game with result := true }) = some false := by
  decide
/-- H1, H2. -/
theorem test_drawHLine :
    bytesAfter (.drawHLine 6 2 3) (zeroed [1, 2, 3, 4, 5, 6, 7]) [1, 2, 3, 4, 5, 6, 7] = some [0, 8, 8, 8, 8, 8, 0] := by
  decide
/-- H5: a span wholly beyond the buffer lights nothing. -/
theorem test_drawHLine_beyond : see State.fb (exec (.drawHLine 200 210 3) game) = some [] := by decide
/-- V1. -/
theorem test_drawVLine : bytesAfter (.drawVLine 7 6 9) (zeroed [7, 139]) [7, 139] = some [0xC0, 3] := by decide
/-- V4. -/
theorem test_drawVLine_clipped : bytesAfter (.drawVLine 131 40 255) (zeroed [791]) [791] = some [0xFF] := by decide
/-- L5b. -/
theorem test_drawLine_back : bytesAfter (.drawLine 1 2 0 0) (zeroed [0, 1, 2]) [0, 1, 2] = some [1, 6, 0] := by decide
/-- L11: the trace goes on outside the buffer. -/
theorem test_drawLine_clipped :
    linePoints 129 0 134 3 = [(129, 0), (130, 1), (131, 1), (132, 2), (133, 2), (134, 3)] := by decide
/-- R1. -/
theorem test_drawRect : bytesAfter (.drawRect 2 2 4 3) (zeroed [2, 3, 4, 5]) [2, 3, 4, 5] =
    some [0x1C, 0x14, 0x14, 0x1C] := by decide
/-- R5: edges beyond the buffer are not drawn. -/
theorem test_drawRect_clipped : bytesAfter (.drawRect 129 44 10 10) (zeroed [789, 790, 791]) [789, 790, 791] =
    some [0xF0, 0x10, 0x10] := by decide
/-- Q1. -/
theorem test_fillRect : bytesAfter (.fillRect 2 6 3 4) (zeroed [2, 3, 4, 134, 135, 136]) [2, 3, 4, 134, 135, 136] =
    some [0xC0, 0xC0, 0xC0, 3, 3, 3] := by decide
/-- Q3. -/
theorem test_fillRect_outside : see State.fb (exec (.fillRect 0 48 5 5) game) = some [] := by decide
/-- K3's iterations as the first and the last octant points. -/
theorem test_drawCircle :
    bytesAfter (.drawCircle 10 10 2) (zeroed [140, 141, 142, 143, 144]) [140, 141, 142, 143, 144] =
      some [0x0E, 0x11, 0x11, 0x11, 0x0E] := by decide
/-- K6: points with a negative coordinate are skipped. -/
theorem test_drawCircle_corner : bytesAfter (.drawCircle 0 0 2) (zeroed [0, 1, 2]) [0, 1, 2] = some [4, 4, 3] := by
  decide
/-- Section 4, drawTriangle. -/
theorem test_drawTriangle : bytesAfter (.drawTriangle 0 0 4 0 2 3) (zeroed [0, 1, 2, 3, 4]) [0, 1, 2, 3, 4] =
    some [1, 7, 9, 7, 1] := by decide
/-- F2: truncating division. -/
theorem test_fillTriangle : bytesAfter (.fillTriangle 1 1 6 3 2 6) (zeroed [1, 2, 3, 4, 5, 6]) [1, 2, 3, 4, 5, 6] =
    some [0x3E, 0x7C, 0x3C, 0x38, 0x18, 0x08] := by decide
/-- F1, its vertices in another order. -/
theorem test_fillTriangle_unsorted : bytesAfter (.fillTriangle 2 3 4 0 0 0) (zeroed [0, 1, 2, 3, 4]) [0, 1, 2, 3, 4] =
    some [3, 7, 0xF, 7, 3] := by decide
/-- T1: whole bytes are stored, then one blank column. -/
theorem test_drawChar :
    bytesAfter (.drawChar 2 10 0x41 .standard 1) { game with fb := [(278, 0xFF), (279, 0xFF), (280, 0xFF)] }
      [278, 279, 280] = some [Config.standardGlyph 0x41 4, 0, 0xFF] := rfl
/-- T2. -/
theorem test_drawChar_skipped : see State.fb (exec (.drawChar 0 130 0x41 .compact 1) game) = some [] := by decide
/-- T5. -/
theorem test_drawText : bytesAfter (.drawText 1 0 [0x41, 0x42] .compact) game [134, 135, 136, 139] =
    some [Config.compactGlyph 33 2, 0, Config.compactGlyph 34 0, 0] := rfl
/-- T8. -/
theorem test_drawText_cut : see State.fb (exec (.drawText 0 128 [0x41, 0x42] .standard) game) = some [] := by decide
/-- T13. -/
theorem test_drawNumber : bytesAfter (.drawNumber 0 0 (BitVec.ofInt 32 (-42)) .compact) game [0, 3, 4, 7, 8, 11] =
    some [Config.compactGlyph 13 0, 0, Config.compactGlyph 20 0, 0, Config.compactGlyph 18 0, 0] := rfl
/-- T15. -/
theorem test_drawNumber_lowest :
    dec (-2147483648) = [0x2D, 0x32, 0x31, 0x34, 0x37, 0x34, 0x38, 0x33, 0x36, 0x34, 0x38] := by decide
/-- B1. -/
theorem test_drawBitmap : bytesAfter (.drawBitmap 3 5 [0xFF, 0x81] 2 8) (zeroed [3, 4, 135, 136]) [3, 4, 135, 136] =
    some [0xE0, 0x20, 0x1F, 0x10] := by decide
/-- B4: columns and pages beyond the buffer are skipped; B8: what was lit stays. -/
theorem test_drawBitmap_clipped :
    bytesAfter (.drawBitmap 130 44 [0xFF, 0xFF, 0xFF, 0xFF] 4 8) { game with fb := [(790, 0), (791, 1)] } [790, 791] =
      some [0xF0, 0xF1] := by decide

/-! ### The game: 95_test_vectors.md sections 7, 8 and 10 -/

/-- G1: draws on the snake are rejected. -/
theorem test_gameReset :
    see (fun t => (t.gameState, t.snake.cells, t.food, t.score, t.okHeld))
      (exec .gameReset { drawing [(15, 5), (16, 5), (20, 5), (0, 0)] with
        gameState := .gameOver, score := 7, okHeld := true, snake := ⟨⟨0, 0⟩, []⟩ }) =
      some (.running, [⟨16, 5⟩, ⟨15, 5⟩, ⟨14, 5⟩], ⟨20, 5⟩, 0, true) := by decide
/-- G12 (a): the fallback scan. -/
theorem test_placeFood_fallback :
    see (fun t => (t.food, t.rndPort.taken)) (exec .placeFood (drawing (List.replicate 100 (16, 5)))) =
      some (⟨0, 0⟩, 100) := by decide +kernel
theorem test_placeFood_draw :
    see State.food (exec .placeFood (drawing [(14, 5), (32, 9), (0, 0)])) = some ⟨32, 9⟩ := by decide
/-- G16: a press toggles once. -/
theorem test_pollInput_ok :
    see (fun t => (t.gameState, t.okHeld)) (exec (.pollInput 5) game) = some (.paused, true) ∧
      see (fun t => (t.gameState, t.okHeld)) (exec (.pollInput 5) { game with okHeld := true }) =
        some (.running, true) := by decide
/-- G4, G17: an arrow that is not the reverse of APPLIED is taken. -/
theorem test_pollInput_arrow :
    see State.intent (exec (.pollInput 1) game) = some .up ∧
      see State.intent (exec (.pollInput 3) { game with intent := .up }) = some .up := by decide
/-- G3: score and speed. -/
theorem test_tick_eats :
    see (fun t => (t.score, t.tickMs))
      (exec .tick { drawing [(20, 5), (19, 5), (3, 2)] with snake := ⟨⟨19, 5⟩, [⟨18, 5⟩, ⟨17, 5⟩]⟩ }) =
        some (1, 195) := by decide
/-- G13, G14: the tail counts; G8: the left edge wraps. -/
theorem test_tick_collides_and_wraps :
    see (fun t => (t.gameState, t.snake.cells, t.applied)) (exec .tick { game with
      snake := ⟨⟨16, 4⟩, [⟨17, 4⟩, ⟨17, 5⟩, ⟨16, 5⟩]⟩, applied := .left, intent := .down }) =
        some (.gameOver, [⟨16, 4⟩, ⟨17, 4⟩, ⟨17, 5⟩, ⟨16, 5⟩], .down) ∧
    see (fun t => t.snake.cells) (exec .tick { game with
      snake := ⟨⟨0, 3⟩, [⟨1, 3⟩, ⟨2, 3⟩]⟩, applied := .left, intent := .left }) =
        some [⟨32, 3⟩, ⟨0, 3⟩, ⟨1, 3⟩] := by decide
/-- Section 8: the food's square; render leaves the game alone. -/
theorem test_render : cellSquare ⟨20, 5⟩ = [(81, 29), (82, 29), (81, 30), (82, 30)] ∧
    see State.snake (exec .render game) = some game.snake := by decide
/-- Section 8 (b): the blank columns of "PAUSE" replace what lay there. -/
theorem test_render_paused : [320, 326, 344, 345].map (readByte (overlay .paused [(344, 0x60), (345, 0x60)])) =
    [0, 0, 0, 0x60] := by decide
/-- Section 9: the last block ends with the buffer's last byte; the buffer is only read. -/
theorem test_flush :
    ((pageBytes [(791, 7)] 5).length, (pageBytes [(791, 7)] 5).getLast?) = (132, some 7) ∧
      see State.fb (exec .flush { game with fb := [(791, 7)] }) = some [(791, 7)] := by decide +kernel
/-- Section 10, rows 2 and 3 and the Clock's wrap: one tick boundary at 200 ms, none at 199. -/
theorem test_loopIteration :
    see (fun t => (t.lastTick, t.snake.head)) (exec .loopIteration { game with
      keyPort := ⟨[1], 0⟩, clockPort := ⟨[1199], 0⟩ }) = some (1000, ⟨16, 5⟩) ∧
    see (fun t => (t.lastTick, t.snake.head)) (exec .loopIteration { game with
      keyPort := ⟨[1], 0⟩, clockPort := ⟨[1200], 0⟩ }) = some (1200, ⟨16, 4⟩) := by decide +kernel
theorem test_loopIteration_clock_wraps :
    see State.lastTick (exec .loopIteration { game with
      lastTick := 0xFFFFFF38, keyPort := ⟨[0], 0⟩, clockPort := ⟨[0], 0⟩ }) = some 0 := by decide +kernel
/-- G18. -/
theorem test_tick_score_limit :
    refusedAs .scoreOverflow (exec .tick { game with food := ⟨17, 5⟩, score := 65535 }) = true := by decide

/-! ### Stepping -/

/-- One operation is taken off the stream and run. -/
theorem test_step_stream :
    see (fun t => (t.stream, t.gameState)) (step { game with stream := [0x21, 5, 0x22] }) = some ([0x22], .paused) := by
  decide
/-- The STEP phase alone ticks at the boundary (section 10, row 3, without a key), and draws and sends nothing. -/
theorem test_step_phase_ticks :
    see (fun t => (t.phase, t.lastTick, t.snake.head)) (step { game with phase := .step, clockPort := ⟨[1200], 0⟩ }) =
      some (.render, 1200, ⟨17, 5⟩) ∧
    see (fun t => (t.fb, t.transport)) (step { game with phase := .step, clockPort := ⟨[1200], 0⟩ }) = some ([], []) := by
  decide
/-- Without a stream the built-in loop goes from phase to phase. -/
theorem test_step_phase :
    see (fun t => (t.phase, t.okHeld)) (step { game with keyPort := ⟨[5], 0⟩ }) = some (.step, true) := by decide
theorem test_step_refused :
    refusedAs .reservedOpcode (step { game with stream := [0x1F] }) = true ∧
      refusedAs .reservedFont (step { game with stream := [0x11, 0, 0, 2, 1, 0x41] }) = true ∧
      refusedAs .truncatedStream (step { game with stream := [0x18, 0, 0, 2, 9, 1, 2, 3] }) = true := by decide
/-- A placed instruction runs as the first one after reset. -/
theorem test_step_after_reset :
    see (fun t => (t.okHeld, t.gameState)) (step (State.reset.withFetchWord 16 0x0521)) = some (true, .paused) := by
  decide +kernel

/-! ### Witnesses: for each statement with hypotheses, a concrete state and operands that meet them all. A statement whose
only hypothesis is that an instruction answers a next state is witnessed by `witness_exec_next`. -/

/-- The game with its stream set. -/
def streaming (bs : List Byte) : State := { game with stream := bs }

/-- A body on every cell but `c`; it starts at `(0,0)`. -/
def bodyBut (c : Point) : Snake := ⟨⟨0, 0⟩, gridCells.filter fun p => decide (p ≠ c)⟩

/-- The game with that body. -/
def fullBut (c : Point) : State := { drawing (List.replicate 100 (16, 5)) with snake := bodyBut c }

theorem mem_bodyBut {c p : Point} (hc : c ≠ ⟨0, 0⟩) : p ∈ (bodyBut c).cells ↔ InGrid p ∧ p ≠ c := by
  simp only [bodyBut, Snake.cells, List.mem_cons, List.mem_filter, mem_gridCells, decide_eq_true_eq]
  constructor
  · rintro (rfl | h)
    · exact ⟨by decide, hc.symm⟩
    · exact h
  · exact .inr

/-- An instruction of every kind answers a next state: NoInstructionTouchesTheStream, GetPixelAfterSetPixel,
DrawingTwiceIsDrawingOnce, OnlyFlushCallsTheTransport, OwnershipOfBufferAndGame. -/
theorem witness_exec_next :
    (∃ t, exec (.setPixel 131 47 true) game = .next t) ∧ (∃ t, exec (.drawBitmap 3 5 [0xFF, 0x81] 2 8) game = .next t) ∧
    (∃ t, exec .render game = .next t) ∧ (∃ t, exec .flush game = .next t) ∧ (∃ t, exec .tick game = .next t) ∧
    ∃ t, exec (.pollInput 5) game = .next t :=
  ⟨⟨_, rfl⟩, ⟨_, rfl⟩, ⟨_, rfl⟩, ⟨_, rfl⟩, ⟨_, rfl⟩, ⟨_, rfl⟩⟩

/-- The longest text and an empty bitmap. -/
theorem witness_DecodeEncodeRoundTrip :
    (Instr.drawText 0 0 (List.replicate 255 0xFF) .standard).WellFormed ∧ (Instr.drawBitmap 0 0 [] 0 255).WellFormed ∧
      (Instr.pollInput 255).WellFormed := by decide +kernel

theorem witness_DecodeConsumesTheOperationsLength :
    decode [0x21, 9, 0x22] = .ok (.pollInput 9, [0x22]) ∧ ((0x05 : Byte) ≠ 0x11 ∧ (0x05 : Byte) ≠ 0x18) ∧
    (opLength (streaming [0x05, 0, 0, 5]).stream = some 5 ∧ (streaming [0x05, 0, 0, 5]).stream.length < 5) ∧
    ((streaming [0x11, 0, 0, 0]).stream = 0x11 :: [0, 0, 0] ∧ [(0 : Byte), 0, 0].length < 4) ∧
    (streaming [0x18]).stream = 0x18 :: [] := ⟨rfl, by decide, by decide, by decide, rfl⟩

theorem witness_OpcodeByteSelectsTheOperation : decode [0x26] = .ok (.loopIteration, []) := rfl

/-- Each range at both of its ends, each format with a reserved font and all its bytes. -/
theorem witness_ReservedEncodingsAreRefused :
    (∀ b ∈ [(0x0B : Byte), 0x0F, 0x13, 0x17, 0x19, 0x1F, 0x27, 0xFF], (streaming [b]).stream = b :: [] ∧
      ((0x0B ≤ b.toNat ∧ b.toNat ≤ 0x0F) ∨ (0x13 ≤ b.toNat ∧ b.toNat ≤ 0x17) ∨ (0x19 ≤ b.toNat ∧ b.toNat ≤ 0x1F) ∨
        0x27 ≤ b.toNat)) ∧
    (2 ≤ (2 : Byte).toNat ∧ 2 ≤ (255 : Byte).toNat) ∧
    (streaming [0x10, 0, 0, 0x41, 2, 1]).stream = 0x10 :: 0 :: 0 :: 0x41 :: 2 :: 1 :: [] ∧
    ((streaming [0x11, 0, 0, 255, 1, 0x41]).stream = 0x11 :: 0 :: 0 :: 255 :: 1 :: [0x41] ∧
      (1 : Byte).toNat ≤ [(0x41 : Byte)].length) ∧
    (streaming [0x12, 0, 0, 2, 1, 2, 3, 4]).stream = 0x12 :: 0 :: 0 :: 2 :: 1 :: 2 :: 3 :: 4 :: [] := by decide

theorem witness_StepRunsTheDecodedInstruction :
    decode (streaming [0x21, 5, 0x22]).stream = .ok (.pollInput 5, [0x22]) := rfl

/-- Each phase; for STEP one millisecond below the interval, at it, and at it with a refused tick. -/
theorem witness_EmptyStreamStepsThroughThePhases :
    let s : Word → State := fun now => { game with phase := .step, clockPort := ⟨[now], 0⟩ }
    (game.stream = [] ∧ game.phase = .input ∧
      5 = (({ game with keyPort := ⟨[5], 0⟩ } : State).keyPort.answer Config.keyRead 0).setWidth 8) ∧
    ((s 1199).phase = .step ∧ 1199 = (s 1199).clockPort.answer Config.clockRead 0 ∧
      (1199 + 2 ^ 32 - game.lastTick.toNat) % 2 ^ 32 < game.tickMs.toNat) ∧
    (1200 = (s 1200).clockPort.answer Config.clockRead 0 ∧ game.score ≠ 65535 ∧
      game.tickMs.toNat ≤ (1200 + 2 ^ 32 - game.lastTick.toNat) % 2 ^ 32) ∧
    refusedAs .scoreOverflow (exec .tick { s 1200 with food := ⟨17, 5⟩, score := 65535, lastTick := 1200 }) = true ∧
    ({ game with phase := .render } : State).phase = .render ∧ ({ game with phase := .flush } : State).phase = .flush := by
  decide

theorem witness_LoopIterationIsFourPhaseSteps : game.phase = .input ∧ game.stream = [] := by decide

theorem witness_EveryOperationCompletes :
    (Instr.render ≠ .tick ∧ Instr.render ≠ .loopIteration) ∧ ({ game with score := 65534 } : State).score ≠ 65535 ∧
    ({ game with score := 65535, gameState := .paused } : State).gameState ≠ .running ∧
    ({ game with score := 65535, gameState := .gameOver } : State).gameState = .gameOver := by decide

/-- A flat top, a flat bottom and one scanline. -/
theorem witness_FillTriangleFillsTheClosedForm :
    ((0 : Byte).toNat ≤ (0 : Byte).toNat ∧ (0 : Byte).toNat ≤ (3 : Byte).toNat) ∧
    ((0 : Byte).toNat ≤ (255 : Byte).toNat ∧ (255 : Byte).toNat ≤ (255 : Byte).toNat) := by decide

theorem witness_GlyphLookupIsTotal :
    (0 < 5 ∧ 4 < 5 ∧ 2 < 3) ∧ (32 : Byte).toNat = 32 + (0 : Fin 95).val ∧ (126 : Byte).toNat = 32 + (94 : Fin 95).val ∧
      (31 : Byte).toNat < 32 ∧ 126 < (127 : Byte).toNat := by decide

theorem witness_DrawBitmapLightsTheSourcePixels :
    (Instr.drawBitmap 3 5 [0xFF, 0x81] 2 8).WellFormed ∧ (Instr.drawBitmap 0 0 [0xFF] 1 3).WellFormed := by decide

theorem witness_DrawingTwiceIsDrawingOnce : ∃ t, exec (.drawText 1 0 [0x41] .compact) game = .next t := ⟨_, rfl⟩

/-- A free first draw, a free hundredth draw, a hundred occupied draws with the first free cell at either end of the grid. -/
theorem witness_PlaceFoodDrawsThenScans :
    pointOfCell ((drawing [(20, 5)]).rndPort.answer Config.rndCell 0) ∉ (drawing [(20, 5)]).snake.cells ∧
    ((∀ j < 99, pointOfCell ((drawing (List.replicate 99 (16, 5) ++ [(20, 5)])).rndPort.answer Config.rndCell j) ∈
        game.snake.cells) ∧
      pointOfCell ((drawing (List.replicate 99 (16, 5) ++ [(20, 5)])).rndPort.answer Config.rndCell 99) ∉
        game.snake.cells) ∧
    ((∀ j < 100, pointOfCell ((drawing (List.replicate 100 (16, 5))).rndPort.answer Config.rndCell j) ∈
        game.snake.cells) ∧ pointOf 0 0 ∉ game.snake.cells) := by decide +kernel

theorem witness_PlaceFoodDrawsThenScans_last_cell :
    (∀ j < 100, pointOfCell ((fullBut ⟨32, 9⟩).rndPort.answer Config.rndCell j) ∈ (fullBut ⟨32, 9⟩).snake.cells) ∧
    pointOf 32 9 ∉ (fullBut ⟨32, 9⟩).snake.cells ∧
    ∀ x' y', x' < 33 → y' < 10 → (y' < 9 ∨ (y' = 9 ∧ x' < 32)) → pointOf x' y' ∈ (fullBut ⟨32, 9⟩).snake.cells := by
  have hc : (⟨32, 9⟩ : Point) ≠ ⟨0, 0⟩ := by decide
  have hm : ∀ p, p ∈ (fullBut ⟨32, 9⟩).snake.cells ↔ InGrid p ∧ p ≠ ⟨32, 9⟩ := fun p => mem_bodyBut hc
  refine ⟨fun j hj => ?_, fun h => ((hm _).1 h).2 rfl, fun x y hx hy h => (hm _).2 ⟨inGrid_pointOf hx hy, ?_⟩⟩
  · have ha : ∀ j < 100, (fullBut ⟨32, 9⟩).rndPort.answer Config.rndCell j = (16, 5) := by decide +kernel
    rw [ha j hj, hm]
    decide
  · have hne : ∀ x < 33, ∀ y < 10, (y < 9 ∨ (y = 9 ∧ x < 32)) → pointOf x y ≠ ⟨32, 9⟩ := by decide +kernel
    exact hne x hx y hy h

theorem witness_PlaceFoodFindsAFreeCell :
    InGrid ⟨32, 9⟩ ∧ (⟨32, 9⟩ : Point) ∉ (fullBut ⟨32, 9⟩).snake.cells ∧
      ∀ c', InGrid c' → c' ≠ ⟨32, 9⟩ → c' ∈ (fullBut ⟨32, 9⟩).snake.cells := by
  have hc : (⟨32, 9⟩ : Point) ≠ ⟨0, 0⟩ := by decide
  exact ⟨by decide, fun h => ((mem_bodyBut hc).1 h).2 rfl, fun c h1 h2 => (mem_bodyBut hc).2 ⟨h1, h2⟩⟩

/-- Every key code's row, in every state with an edge, and with the latch held. -/
theorem witness_PollInputFollowsItsTable :
    (game.okHeld = false ∧ game.gameState = .running) ∧ ({ game with gameState := .paused } : State).gameState = .paused ∧
    ({ game with gameState := .gameOver } : State).gameState = .gameOver ∧
    ({ game with okHeld := true } : State).okHeld = true ∧
    ((1, .up) ∈ [((1 : Byte), Direction.up), (2, .down), (3, .left), (4, .right)]) ∧
    ((4, .right) ∈ [((1 : Byte), Direction.up), (2, .down), (3, .left), (4, .right)]) ∧ 6 ≤ (6 : Byte).toNat ∧
    6 ≤ (255 : Byte).toNat := by decide

theorem witness_NewHeadWrapsEachAxis : InGrid ⟨32, 9⟩ ∧ InGrid ⟨0, 0⟩ := by decide

theorem witness_TickOutsideRunningDoesNothing : ({ game with gameState := .paused } : State).gameState ≠ .running := by
  decide

/-- The tail segment counts as a collision; the intent is applied first. -/
theorem witness_TickCollisionEndsTheGame :
    let s : State := { game with
      snake := ⟨⟨16, 4⟩, [⟨17, 4⟩, ⟨17, 5⟩, ⟨16, 5⟩]⟩
      applied := .left
      intent := .down }
    s.gameState = .running ∧ Direction.down = (if s.intent = s.applied.reverse then s.applied else s.intent) ∧
      newHead s.snake.head .down ∈ s.snake.cells := by decide

theorem witness_TickMovesTheSnake :
    game.gameState = .running ∧ Direction.right = (if game.intent = game.applied.reverse then game.applied else game.intent) ∧
      newHead game.snake.head .right ∉ game.snake.cells ∧ newHead game.snake.head .right ≠ game.food := by decide

theorem witness_TickEatsTheFood :
    let s : State := { game with food := ⟨17, 5⟩, score := 65534 }
    s.gameState = .running ∧ s.score ≠ 65535 ∧
      Direction.right = (if s.intent = s.applied.reverse then s.applied else s.intent) ∧
      newHead s.snake.head .right ∉ s.snake.cells ∧ newHead s.snake.head .right = s.food := by decide

theorem witness_EatingTickAtFullScoreIsRefused :
    let s : State := { game with food := ⟨17, 5⟩, score := 65535 }
    s.gameState = .running ∧ s.score = 65535 ∧
      Direction.right = (if s.intent = s.applied.reverse then s.applied else s.intent) ∧
      newHead s.snake.head .right ∉ s.snake.cells ∧ newHead s.snake.head .right = s.food := by decide

/-- Each of the four changes of STATE happens. -/
theorem witness_StateTransitionsFollowTheTable :
    see State.gameState (exec .tick { game with snake := ⟨⟨16, 4⟩, [⟨17, 4⟩, ⟨17, 5⟩, ⟨16, 5⟩]⟩, applied := .left, intent := .down }) =
      some .gameOver ∧
    see State.gameState (exec (.pollInput 5) game) = some .paused ∧
    see State.gameState (exec (.pollInput 5) { game with gameState := .paused }) = some .running ∧
    see State.gameState (exec (.pollInput 5) { game with gameState := .gameOver }) = some .running ∧
    see State.gameState (exec .gameReset { game with gameState := .gameOver }) = some .running := by decide

theorem witness_ReversalIsIgnored :
    game.gameState = .running ∧ game.intent = game.applied ∧ Direction.left = game.applied.reverse ∧
      ((3, .left) ∈ [((1 : Byte), Direction.up), (2, .down), (3, .left), (4, .right)]) ∧
      ∃ t u, exec (.pollInput 3) game = .next t ∧ exec .tick t = .next u ∧ u.gameState = .running :=
  ⟨rfl, rfl, rfl, by decide, _, _, rfl, rfl, rfl⟩

theorem witness_StraightSnakeGoesRound :
    game.gameState = .running ∧ game.applied = .right ∧ game.intent = .right ∧
      game.snake = ⟨⟨16, 5⟩, [⟨15, 5⟩, ⟨14, 5⟩]⟩ ∧ ({ game with food := ⟨0, 0⟩ } : State).food.y ≠ 5 := by decide

theorem witness_RenderIsItsExpansion : InGrid game.food ∧ ∀ p ∈ game.snake.cells, InGrid p := by decide

theorem witness_RenderIgnoresTheOldPicture :
    (zeroed [3]).gameState = game.gameState ∧ (zeroed [3]).score = game.score ∧ (zeroed [3]).food = game.food ∧
      (zeroed [3]).snake = game.snake ∧ (zeroed [3]).fb ≠ game.fb := by decide

/-- One millisecond below the interval, at it, and at it with a refused tick. -/
theorem witness_LoopIterationRunsItsFourPhases :
    let s : Word → State := fun now => { game with keyPort := ⟨[0], 0⟩, clockPort := ⟨[now], 0⟩ }
    0 = ((s 1199).keyPort.answer Config.keyRead 0).setWidth 8 ∧ 1199 = (s 1199).clockPort.answer Config.clockRead 0 ∧
    (1199 + 2 ^ 32 - game.lastTick.toNat) % 2 ^ 32 < game.tickMs.toNat ∧
    1200 = (s 1200).clockPort.answer Config.clockRead 0 ∧
    game.tickMs.toNat ≤ (1200 + 2 ^ 32 - game.lastTick.toNat) % 2 ^ 32 ∧ game.score ≠ 65535 ∧
    refusedAs .scoreOverflow (exec .tick { s 1200 with food := ⟨17, 5⟩, score := 65535, lastTick := 1200 }) = true := by
  decide

theorem witness_LoopIterationReadsEachInputOnce : ∃ t, exec .loopIteration { game with
    keyPort := ⟨[0], 0⟩, clockPort := ⟨[1199], 0⟩ } = .next t := ⟨_, rfl⟩

/-- Each of the registers that only some operations write changes under one of them. -/
theorem witness_RegistersHaveTheirWriters :
    see State.result (exec (.getPixel 5 10) { game with fb := [(137, 4)] }) = some true ∧
    see State.okHeld (exec (.pollInput 5) game) = some true ∧ see State.intent (exec (.pollInput 1) game) = some .up ∧
    see (fun t => t.snake.head) (exec .tick game) = some ⟨17, 5⟩ ∧
    see State.food (exec .placeFood (drawing [(32, 9)])) = some ⟨32, 9⟩ := by decide

theorem witness_ResetIsThePowerOnSequence :
    game.fb = [] ∧ game.transport = [] ∧ game.stream = [] ∧ game.keyPort = Port.fresh ∧ game.clockPort = Port.fresh ∧
      game.rndPort = Port.fresh := by decide

/-- A state other than reset that meets the invariant, at the shortest tick interval, and steps. -/
theorem witness_EveryStepKeepsTheInvariant :
    ({ game with tickMs := 80, stream := [0x22] } : State).Inv ∧
      ∃ t, step { game with tickMs := 80, stream := [0x22] } = .next t := by
  refine ⟨⟨by decide, by decide, ?_, by decide, by decide, by decide, by decide, by decide, ?_⟩, _, rfl⟩
  · exact Config.three_le_snakeCap
  · exact Config.tickFloor_le_tickBase

theorem witness_EveryStepKeepsLenAndTickInStepWithScore :
    ({ game with tickMs := Config.tickBase, stream := [0x22] } : State).ScoreTracks ∧
      ∃ t, step { game with tickMs := Config.tickBase, stream := [0x22] } = .next t := by
  refine ⟨⟨?_, ?_⟩, _, rfl⟩
  · exact (min_eq_left (b := Config.snakeCap) Config.three_le_snakeCap).symm
  · exact (max_eq_left (a := Config.tickBase.toNat) Config.tickFloor_le_tickBase).symm

theorem witness_EveryStepKeepsTheBodyConnected :
    BodyConnected game.snake ∧ ∃ t, step { game with stream := [0x22] } = .next t := by
  refine ⟨?_, _, rfl⟩
  simp only [BodyConnected, Snake.cells, game, List.isChain_cons_cons, List.isChain_singleton, and_true]
  exact ⟨⟨.right, by decide⟩, .right, by decide⟩

end Sys2Proof.Tests
end

section
/-! The proofs of the statements on the state: the loop's phases, and who writes and reads which
register. First what each shared operation writes and leaves, said once each; then the statements. -/

namespace Sys2Proof.Machine

/-! ### Directions (R17) -/

theorem Direction.ne_reverse (d : Direction) : d ≠ d.reverse := by
  cases d <;> decide

/-- What a poll makes of INTENT is no reversal, if the old INTENT is none (R139). -/
theorem intentAfter_ne_reverse (k : Key) {applied intent : Direction} (h : intent ≠ applied.reverse) :
    intentAfter k applied intent ≠ applied.reverse := by
  unfold intentAfter
  cases k.direction? with
  | none => exact h
  | some d =>
    by_cases hd : d = applied.reverse
    · simpa only [if_pos hd] using h
    · simpa only [if_neg hd] using hd

/-- A tick applies an INTENT that is no reversal (R140 step (a)). -/
theorem appliedAfter_of_ne_reverse {applied intent : Direction} (h : intent ≠ applied.reverse) :
    appliedAfter applied intent = intent :=
  if_neg h

/-! ### Drawing operations (R88) -/

/-- Instruction `i` changes the PixelBuffer by `f` and nothing else, on every state, and `f` keeps the canonical form. -/
structure DrawsBy (i : Instr) (f : Memory → Memory) : Prop where
  exec_eq : ∀ s, exec i s = .next { s with fb := f s.fb }
  wf : ∀ m, Memory.wf m = true → Memory.wf (f m) = true

/-- An instruction that plots the points of one trace draws. -/
theorem drawsBy_plotAll {i : Instr} (ps : List Pixel)
    (h : ∀ s, exec i s = .next { s with fb := plotAll s.fb ps }) : DrawsBy i fun m => plotAll m ps :=
  ⟨h, fun _ => plotAll_wf ps⟩

/-- The operations by what they can do to the state: the drawing operations but `getPixel` are one kind. -/
inductive OpKind : Instr → Prop
  | draws {i : Instr} (f : Memory → Memory) (hi : isDrawing i = true) (h : DrawsBy i f) : OpKind i
  | getPixel (x y : Byte) : OpKind (.getPixel x y)
  | gameReset : OpKind .gameReset
  | placeFood : OpKind .placeFood
  | pollInput (key : Byte) : OpKind (.pollInput key)
  | tick : OpKind .tick
  | render : OpKind .render
  | flush : OpKind .flush
  | loopIteration : OpKind .loopIteration

/-- Every instruction is of one of the kinds. -/
theorem opKind (i : Instr) : OpKind i := by
  cases i with
  | clearBuffer => exact .draws (fun _ => clearedFb) rfl ⟨fun _ => rfl, fun _ _ => clearedFb_wf⟩
  | setPixel x y on =>
    exact .draws (fun m => writePixel m (coord x) (coord y) on) rfl ⟨fun _ => rfl, fun _ => writePixel_wf _ _ _⟩
  | getPixel x y => exact .getPixel x y
  | drawHLine => exact .draws _ rfl (drawsBy_plotAll _ fun _ => rfl)
  | drawVLine => exact .draws _ rfl (drawsBy_plotAll _ fun _ => rfl)
  | drawLine => exact .draws _ rfl (drawsBy_plotAll _ fun _ => rfl)
  | drawRect => exact .draws _ rfl (drawsBy_plotAll _ fun _ => rfl)
  | fillRect => exact .draws _ rfl (drawsBy_plotAll _ fun _ => rfl)
  | drawCircle => exact .draws _ rfl (drawsBy_plotAll _ fun _ => rfl)
  | drawTriangle => exact .draws _ rfl (drawsBy_plotAll _ fun _ => rfl)
  | fillTriangle => exact .draws _ rfl (drawsBy_plotAll _ fun _ => rfl)
  | drawChar page col char font spacing =>
    exact .draws (fun m => drawCharFb m page.toNat col.toNat char font spacing.toNat) rfl
      ⟨fun _ => rfl, fun _ => drawCharFb_wf _ _ _ _ _⟩
  | drawText page col text font =>
    exact .draws (fun m => drawTextFb page.toNat font m col.toNat text) rfl
      ⟨fun _ => rfl, fun _ => drawTextFb_wf _ _ _ _⟩
  | drawNumber page col value font =>
    exact .draws (fun m => drawTextFb page.toNat font m col.toNat (dec value.toInt)) rfl
      ⟨fun _ => rfl, fun _ => drawTextFb_wf _ _ _ _⟩
  | drawBitmap x y bitmap w h =>
    exact .draws (fun m => drawBitmapFb m x.toNat y.toNat bitmap w.toNat (bitmapPages h)) rfl
      ⟨fun _ => rfl, fun _ => drawBitmapFb_wf _ _ _ _ _⟩
  | gameReset => exact .gameReset
  | pollInput key => exact .pollInput key
  | tick => exact .tick
  | render => exact .render
  | flush => exact .flush
  | placeFood => exact .placeFood
  | loopIteration => exact .loopIteration

/-- What a drawing operation comes to. -/
theorem DrawsBy.next_eq {i : Instr} {f : Memory → Memory} (h : DrawsBy i f) {s t : State}
    (ht : exec i s = .next t) : t = { s with fb := f s.fb } := by
  rw [h.exec_eq] at ht
  exact (Host.Outcome.next.inj ht).symm

theorem exec_getPixel (x y : Byte) (s : State) :
    exec (.getPixel x y) s = .next (s.setResult (readPixel s.fb (coord x) (coord y))) := rfl

/-! ### What the game operations leave unchanged (R29, R130) -/

/-- From `s` to `t` only STATE, the snake, FOOD, the directions, SCORE, TICK_MS, OK_HELD and the Rnd port can differ. -/
structure OnlyGame (s t : State) : Prop where
  phase : t.phase = s.phase
  lastTick : t.lastTick = s.lastTick
  result : t.result = s.result
  fb : t.fb = s.fb
  transport : t.transport = s.transport
  stream : t.stream = s.stream
  keyPort : t.keyPort = s.keyPort
  clockPort : t.clockPort = s.clockPort

/-- An OK edge is answered to the key Ok alone (R135). -/
theorem key_of_okEdge {held : Bool} {k : Key} (h : okEdge held k = true) : k = .ok := by
  simp only [okEdge, okHeldAfter, Bool.and_eq_true, decide_eq_true_eq] at h
  exact h.1

/-- The operand byte of the key Ok is 5 (R24, R66). -/
theorem keyOfCode_eq_ok {b : Byte} (h : keyOfCode b = .ok) : b = 5 := by
  unfold keyOfCode at h
  split at h
  case h_6 h5 => exact BitVec.eq_of_toNat_eq h5
  all_goals cases h

/-- What polling a key can come to (R146): the restart of a lost game, or new values of STATE, INTENT and OK_HELD, where
only a Running game takes an INTENT. -/
theorem pollKey_cases (k : Key) (s : State) :
    (s.gameState = .gameOver ∧ k = .ok ∧ pollKey k s = (gameReset s).setOkHeld true) ∨
      ∃ g, pollKey k s = { s with
        gameState := g
        intent := if s.gameState = .running then intentAfter k s.applied s.intent else s.intent
        okHeld := okHeldAfter k } := by
  cases hg : s.gameState with
  | running => exact .inr ⟨if okEdge s.okHeld k then .paused else .running, by simp [pollKey, hg]⟩
  | paused => exact .inr ⟨if okEdge s.okHeld k then .running else .paused, by simp [pollKey, hg]⟩
  | gameOver =>
    by_cases he : okEdge s.okHeld k = true
    · obtain rfl := key_of_okEdge he
      exact .inl ⟨rfl, rfl, by simp [pollKey, hg, he, okHeldAfter]⟩
    · exact .inr ⟨.gameOver, by simp [pollKey, hg, he, State.setOkHeld]⟩

theorem pollKey_onlyGame (k : Key) (s : State) : OnlyGame s (pollKey k s) := by
  rcases pollKey_cases k s with ⟨_, _, h⟩ | ⟨g, h⟩ <;> rw [h] <;> constructor <;> rfl

theorem tickState_onlyGame (s : State) : OnlyGame s (tickState s) := by
  rcases tickState_cases s with ⟨_, h⟩ | ⟨_, _, h⟩ | ⟨_, _, _, h⟩ | ⟨_, _, _, h⟩ <;> rw [h] <;> constructor <;> rfl

@[simp] theorem tickState_intent (s : State) : (tickState s).intent = s.intent := by
  rcases tickState_cases s with ⟨_, h⟩ | ⟨_, _, h⟩ | ⟨_, _, _, h⟩ | ⟨_, _, _, h⟩ <;> simp [h]

@[simp] theorem tickState_okHeld (s : State) : (tickState s).okHeld = s.okHeld := by
  rcases tickState_cases s with ⟨_, h⟩ | ⟨_, _, h⟩ | ⟨_, _, _, h⟩ | ⟨_, _, _, h⟩ <;> simp [h]

/-- Polling a key does not read the PixelBuffer. -/
theorem pollKey_withFb (k : Key) (s : State) (m : Memory) :
    pollKey k { s with fb := m } = { pollKey k s with fb := m } := by
  cases hg : s.gameState with
  | running => simp [pollKey, hg]
  | paused => simp [pollKey, hg]
  | gameOver => by_cases he : okEdge s.okHeld k = true <;> simp [pollKey, hg, he, gameReset, placeFood, State.setOkHeld]

theorem tickState_of_not_running {s : State} (hg : s.gameState ≠ .running) : tickState s = s := by
  rcases tickState_cases s with ⟨_, h⟩ | ⟨hr, _⟩ | ⟨hr, _⟩ | ⟨hr, _⟩
  · exact h
  all_goals exact absurd hr hg

theorem tickState_of_collision {s : State} (hg : s.gameState = .running) (ho : tickHead s ∈ s.snake.cells) :
    tickState s = { s with applied := appliedAfter s.applied s.intent, gameState := .gameOver } := by
  rcases tickState_cases s with ⟨hr, _⟩ | ⟨_, _, h⟩ | ⟨_, hfree, _⟩ | ⟨_, hfree, _⟩
  · exact absurd hg hr
  · exact h
  all_goals exact absurd ho hfree

theorem tickState_of_move {s : State} (hg : s.gameState = .running) (ho : tickHead s ∉ s.snake.cells)
    (hf : tickHead s ≠ s.food) : tickState s =
      { s with applied := appliedAfter s.applied s.intent, snake := moveBody s.snake (tickHead s) } := by
  rcases tickState_cases s with ⟨hr, _⟩ | ⟨_, hocc, _⟩ | ⟨_, _, _, h⟩ | ⟨_, _, hfood, _⟩
  · exact absurd hg hr
  · exact absurd hocc ho
  · exact h
  · exact absurd hfood hf

theorem tickState_of_eat {s : State} (hg : s.gameState = .running) (ho : tickHead s ∉ s.snake.cells)
    (hf : tickHead s = s.food) : tickState s = eatFood s.snake.last
      { s with applied := appliedAfter s.applied s.intent, snake := moveBody s.snake (tickHead s) } := by
  rcases tickState_cases s with ⟨hr, _⟩ | ⟨_, hocc, _⟩ | ⟨_, _, hfood, _⟩ | ⟨_, _, _, h⟩
  · exact absurd hg hr
  · exact absurd hocc ho
  · exact absurd hf hfood
  · exact h

/-- A tick does not read the PixelBuffer. -/
theorem tickState_withFb (s : State) (m : Memory) :
    tickState { s with fb := m } = { tickState s with fb := m } := by
  rcases tickState_cases s with ⟨hg, h⟩ | ⟨hg, ho, h⟩ | ⟨hg, ho, hf, h⟩ | ⟨hg, ho, hf, h⟩ <;> rw [h]
  · exact tickState_of_not_running hg
  · exact tickState_of_collision hg ho
  · exact tickState_of_move hg ho hf
  · exact tickState_of_eat hg ho hf

/-! ### The tick as an instruction (R140, U7) -/

theorem exec_tick_next_iff {s t : State} : exec .tick s = .next t ↔ scoreOverflow s = false ∧ t = tickState s := by
  show execTick s = .next t ↔ _
  unfold execTick
  cases scoreOverflow s <;> simp [eq_comm]

theorem exec_tick_refused {s : State} (h : scoreOverflow s = true) : exec .tick s = .refused .scoreOverflow := by
  show execTick s = _
  rw [execTick, if_pos h]

theorem scoreOverflow_of_score_ne {s : State} (h : s.score ≠ 65535) : scoreOverflow s = false :=
  Bool.eq_false_iff.2 fun ho => h ((scoreOverflow_iff s).1 ho).1

/-! ### The phases of the built-in loop (R12, R160) -/

theorem step_inputPhase {s : State} (hs : s.stream = []) (hp : s.phase = .input) : step s = .next (inputPhase s) := by
  simp [step, hs, loopPhase, hp]

theorem step_stepPhase {s : State} (hs : s.stream = []) (hp : s.phase = .step) : step s = stepPhase s := by
  simp [step, hs, loopPhase, hp]

theorem step_renderPhase {s : State} (hs : s.stream = []) (hp : s.phase = .render) :
    step s = .next (renderPhase s) := by
  simp [step, hs, loopPhase, hp]

theorem step_flushPhase {s : State} (hs : s.stream = []) (hp : s.phase = .flush) : step s = .next (flushPhase s) := by
  simp [step, hs, loopPhase, hp]

@[simp] theorem inputPhase_phase (s : State) : (inputPhase s).phase = .step := rfl

@[simp] theorem inputPhase_stream (s : State) : (inputPhase s).stream = s.stream := by
  rw [inputPhase_eq]
  exact (pollKey_onlyGame _ _).stream

/-- A STEP phase that answers a next state moves PHASE to RENDER and leaves the stream. -/
theorem stepPhase_next {s t : State} (h : stepPhase s = .next t) : t.phase = .render ∧ t.stream = s.stream := by
  rcases stepPhase_cases s with ⟨_, _, he⟩ | ⟨_, _, he⟩ | ⟨_, he⟩ <;> rw [he] at h <;> cases h
  · exact ⟨rfl, (tickState_onlyGame _).stream⟩
  · exact ⟨rfl, rfl⟩

theorem run_succ_of_next {s t : State} (h : step s = .next t) (k : Nat) :
    Host.Core.run Sys2Proof.core (k + 1) s = Host.Core.run Sys2Proof.core k t := by
  have hcore : Sys2Proof.core.step s = .next t := h
  simp only [Host.Core.run, hcore]

theorem run_succ_of_refused {s : State} {r : Refusal} (h : step s = .refused r) (k : Nat) :
    Host.Core.run Sys2Proof.core (k + 1) s = .refused r := by
  have hcore : Sys2Proof.core.step s = .refused r := h
  simp only [Host.Core.run, hcore]

/-! ### Statements on the loop -/

/-- Settles O9: the four phases run one after the other, the stream staying empty and PHASE moving on; a STEP phase that is
refused ends both runs. -/
theorem loopIterationIsFourPhaseSteps : Obligations.LoopIterationIsFourPhaseSteps := by
  intro s hp hs
  have hs' : (inputPhase s).stream = [] := (inputPhase_stream s).trans hs
  have hstep : step (inputPhase s) = stepPhase (inputPhase s) := step_stepPhase hs' rfl
  show _ = loopPass s
  rw [run_succ_of_next (step_inputPhase hs hp), loopPass]
  cases h : stepPhase (inputPhase s) with
  | fault r => cases r
  | refused r => exact run_succ_of_refused (hstep.trans h) 2
  | next t =>
    obtain ⟨htp, hts⟩ := stepPhase_next h
    have hts' : t.stream = [] := hts.trans hs'
    rw [run_succ_of_next (hstep.trans h), run_succ_of_next (step_renderPhase hts' htp),
      run_succ_of_next (step_flushPhase (s := renderPhase t) hts' rfl)]
    rfl

/-- Settles O8, phase by phase; at STEP by whether the tick is due and whether it is refused. -/
theorem emptyStreamStepsThroughThePhases : Obligations.EmptyStreamStepsThroughThePhases := by
  intro s hs
  refine ⟨fun hp k hk => ?input, fun hp now hnow => ?step, fun hp => ?render, fun hp => ?flush⟩
  case input =>
    subst hk
    exact ⟨_, rfl, by rw [step_inputPhase hs hp, inputPhase_eq]⟩
  case step =>
    subst hnow
    rw [step_stepPhase hs hp, ← not_le, ← tickDue_iff]
    rcases stepPhase_cases s with ⟨hd, ho, he⟩ | ⟨hd, ho, he⟩ | ⟨hd, he⟩ <;> rw [he, hd]
    · refine ⟨fun h => absurd rfl h, fun _ => ⟨fun h => ?_, fun t ht => ?_, fun r hr => ?_⟩⟩
      · exact absurd ((scoreOverflow_iff _).1 ho).1 h
      · rw [exec_tick_refused ho] at ht
        cases ht
      · rw [exec_tick_refused ho] at hr
        cases hr
        rfl
    · have hnext := exec_tick_next_iff.2 ⟨ho, rfl⟩
      refine ⟨fun h => absurd rfl h, fun _ => ⟨fun _ => ⟨_, hnext⟩, fun t ht => ?_, fun r hr => ?_⟩⟩
      · rw [(exec_tick_next_iff.1 ht).2]
      · rw [hnext] at hr
        cases hr
    · exact ⟨fun _ => rfl, fun h => absurd h Bool.false_ne_true⟩
  case render => exact ⟨_, rfl, step_renderPhase hs hp⟩
  case flush => exact ⟨_, rfl, step_flushPhase hs hp⟩

/-- Settles O35, by the four directions. -/
theorem reverseIsCodeXorOne : Obligations.ReverseIsCodeXorOne := by
  refine ⟨rfl, fun d => ?_⟩
  cases d <;> decide

/-- Settles O41: the hypotheses are what `scoreOverflow` tests. -/
theorem eatingTickAtFullScoreIsRefused : Obligations.EatingTickAtFullScoreIsRefused := by
  rintro s d hrun hscore rfl hfree hfood
  exact exec_tick_refused ((scoreOverflow_iff s).2 ⟨hscore, hrun, hfree, hfood⟩)

/-! ### Statements on who writes what -/

/-- Settles O51, by the kinds of operations. -/
theorem ownershipOfBufferAndGame : Obligations.OwnershipOfBufferAndGame := by
  intro i s t h
  cases opKind i with
  | draws f hi hf =>
    obtain rfl := hf.next_eq h
    refine ⟨by simp [hi], fun hg => ?_, by simp, fun _ s' hfb hres => ⟨_, hf.exec_eq s', ?_, hres⟩⟩
    · cases i <;> simp [isGame, isDrawing] at hi hg
    · rw [hfb]
  | getPixel x y =>
    rw [exec_getPixel] at h
    cases h
    refine ⟨by simp, by simp [isGame], by simp, fun _ s' hfb _ => ?_⟩
    refine ⟨_, exec_getPixel x y s', ?_, ?_⟩
    · rw [State.setResult_fb, State.setResult_fb, hfb]
    · rw [State.setResult_result, State.setResult_result, hfb]
  | gameReset =>
    cases h
    exact ⟨by simp, fun _ m => rfl, by simp [isDrawing], by simp [isDrawing]⟩
  | placeFood =>
    cases h
    exact ⟨by simp, fun _ m => rfl, by simp [isDrawing], by simp [isDrawing]⟩
  | pollInput key =>
    cases h
    refine ⟨fun _ _ _ => (pollKey_onlyGame _ s).fb, fun _ m => ?_, by simp [isDrawing], by simp [isDrawing]⟩
    exact congrArg Host.Outcome.next (pollKey_withFb _ s m)
  | tick =>
    obtain ⟨ho, rfl⟩ := exec_tick_next_iff.1 h
    refine ⟨fun _ _ _ => (tickState_onlyGame s).fb, fun _ m => ?_, by simp [isDrawing], by simp [isDrawing]⟩
    rw [exec_tick_next_iff, tickState_withFb s m]
    exact ⟨ho, rfl⟩
  | render =>
    cases h
    exact ⟨by simp, by simp [isGame], by simp, by simp [isDrawing]⟩
  | flush =>
    cases h
    exact ⟨by simp, by simp [isGame], by simp, by simp [isDrawing]⟩
  | loopIteration => exact ⟨by simp, by simp [isGame], by simp [isDrawing], by simp [isDrawing]⟩

/-- Settles O52, by the kinds of operations. -/
theorem registersHaveTheirWriters : Obligations.RegistersHaveTheirWriters := by
  intro i s t hi h
  cases opKind i with
  | draws f hd hf =>
    obtain rfl := hf.next_eq h
    simp
  | getPixel x y =>
    rw [exec_getPixel] at h
    cases h
    simp
  | gameReset =>
    cases h
    simp
  | placeFood =>
    cases h
    simp
  | pollInput key =>
    cases h
    rcases pollKey_cases (keyOfCode key) s with ⟨hg, hk, he⟩ | ⟨g, he⟩
    · obtain rfl := keyOfCode_eq_ok hk
      rw [he]
      simp [hg]
    · rw [he]
      simp
  | tick =>
    obtain ⟨-, rfl⟩ := exec_tick_next_iff.1 h
    have hf := tickState_onlyGame s
    simp [hf.phase, hf.lastTick, hf.result]
  | render =>
    cases h
    simp
  | flush =>
    cases h
    simp
  | loopIteration => exact absurd rfl hi

end Sys2Proof.Machine
end

section
/-! The proofs of the statements on the invariant of every run and on reset: what keeps a snake body legal, then the
invariant operation by operation, phase by phase and step by step. -/

namespace Sys2Proof.Machine

/-! ### The snake body (R14, R15) -/

/-- The clauses of the invariant on the snake: a length within its bounds, distinct segments in the grid. -/
structure Snake.Legal (b : Snake) : Prop where
  len_low : 3 ≤ b.len
  len_high : b.len ≤ Config.snakeCap
  distinct : b.cells.Nodup
  in_grid : ∀ p ∈ b.cells, InGrid p

theorem State.Inv.legal {s : State} (h : s.Inv) : s.snake.Legal :=
  ⟨h.len_low, h.len_high, h.distinct, h.in_grid⟩

theorem startSnake_legal : startSnake.Legal where
  len_low := le_rfl
  len_high := Config.three_le_snakeCap
  distinct := by decide
  in_grid := by decide

/-- A move keeps LEN: the new head comes, the last segment goes (R143). -/
theorem moveBody_len (b : Snake) (h : Point) : (moveBody b h).len = b.len := by
  simp [moveBody, Snake.len, Snake.cells]

/-- The body after an eating tick: the whole old body behind the new head while LEN is below the capacity (R145 (a)). -/
theorem growBody_moveBody (cap : Nat) (b : Snake) (h : Point) :
    growBody cap b.last (moveBody b h) = if b.len < cap then ⟨h, b.cells⟩ else moveBody b h := by
  rw [growBody, moveBody_len]
  split_ifs
  · rw [moveBody, Snake.dropLast_append_last]
  · rfl

theorem legal_moveBody {b : Snake} (hb : b.Legal) {h : Point} (hg : InGrid h) (hfree : h ∉ b.cells) :
    (moveBody b h).Legal where
  len_low := (moveBody_len b h).symm ▸ hb.len_low
  len_high := (moveBody_len b h).symm ▸ hb.len_high
  distinct := List.nodup_cons.2
    ⟨fun hm => hfree (List.mem_of_mem_dropLast hm), hb.distinct.sublist (List.dropLast_sublist _)⟩
  in_grid := List.forall_mem_cons.2 ⟨hg, fun p hp => hb.in_grid p (List.mem_of_mem_dropLast hp)⟩

theorem legal_growBody {b : Snake} (hb : b.Legal) {h : Point} (hg : InGrid h) (hfree : h ∉ b.cells) :
    (growBody Config.snakeCap b.last (moveBody b h)).Legal := by
  rw [growBody_moveBody]
  split_ifs with hlt
  · exact {
      len_low := Nat.le_succ_of_le hb.len_low
      len_high := hlt
      distinct := List.nodup_cons.2 ⟨hfree, hb.distinct⟩
      in_grid := List.forall_mem_cons.2 ⟨hg, hb.in_grid⟩ }
  · exact legal_moveBody hb hg hfree

/-! ### The tick interval (R20, R145 (c)) -/

theorem fasterTick_toNat (ms : Half) :
    (fasterTick ms).toNat = max (ms.toNat - Config.TICK_STEP) Config.TICK_FLOOR := by
  have := ms.isLt
  simp only [fasterTick, BitVec.toNat_ofNat, Config.TICK_STEP_eq, Config.TICK_FLOOR_eq]
  omega

/-! ### The invariant, operation by operation -/

theorem inv_withFb {s : State} (h : s.Inv) {m : Memory} (hm : Memory.wf m = true) :
    State.Inv { s with fb := m } :=
  { h with fb_wf := hm }

theorem inv_setResult {s : State} (h : s.Inv) (b : Bool) : (s.setResult b).Inv := { h with }

theorem inv_placeFood {s : State} (h : s.Inv) : (placeFood s).Inv :=
  { h with food_in_grid := chooseFood_inGrid _ _ }

/-- A game reset needs no more than a canonical buffer to meet the invariant. -/
theorem inv_gameReset {s : State} (hfb : Memory.wf s.fb = true) : (gameReset s).Inv :=
  { startSnake_legal with
    fb_wf := hfb
    food_in_grid := chooseFood_inGrid _ _
    no_reversal := Direction.ne_reverse _
    tick_low := Config.tickFloor_le_tickBase
    tick_high := le_rfl }

theorem inv_pollKey {s : State} (h : s.Inv) (k : Key) : (pollKey k s).Inv := by
  rcases pollKey_cases k s with ⟨_, _, he⟩ | ⟨g, he⟩ <;> rw [he]
  · exact { inv_gameReset h.fb_wf with }
  · refine { h with no_reversal := ?_ }
    show (if s.gameState = .running then _ else _) ≠ _
    split_ifs
    · exact intentAfter_ne_reverse k h.no_reversal
    · exact h.no_reversal

/-- After a tick APPLIED and INTENT agree, and no direction is its own reverse. -/
theorem inv_withApplied {s : State} (h : s.Inv) :
    State.Inv { s with applied := appliedAfter s.applied s.intent } :=
  { h with
    no_reversal := by
      show s.intent ≠ (appliedAfter s.applied s.intent).reverse
      rw [appliedAfter_of_ne_reverse h.no_reversal]
      exact Direction.ne_reverse _ }

theorem inv_withSnake {s : State} (h : s.Inv) {b : Snake} (hb : b.Legal) : State.Inv { s with snake := b } :=
  { h with
    len_low := hb.len_low
    len_high := hb.len_high
    distinct := hb.distinct
    in_grid := hb.in_grid }

theorem inv_eat {s : State} (h : s.Inv) {t : Point} (hb : (growBody Config.snakeCap t s.snake).Legal) :
    (eatFood t s).Inv :=
  { inv_placeFood (inv_withSnake h hb) with
    tick_low := by
      rw [eatFood_tickMs, fasterTick_toNat]
      exact le_max_right _ _
    tick_high := by
      rw [eatFood_tickMs, fasterTick_toNat]
      exact max_le ((Nat.sub_le _ _).trans h.tick_high) Config.tickFloor_le_tickBase }

theorem inv_tickState {s : State} (h : s.Inv) : (tickState s).Inv := by
  have hgrid : InGrid (tickHead s) := inGrid_newHead _ _
  rcases tickState_cases s with ⟨_, he⟩ | ⟨_, _, he⟩ | ⟨_, hfree, _, he⟩ | ⟨_, hfree, _, he⟩ <;> rw [he]
  · exact h
  · exact { inv_withApplied h with }
  · exact inv_withSnake (inv_withApplied h) (legal_moveBody h.legal hgrid hfree)
  · have hmove := inv_withSnake (inv_withApplied h) (legal_moveBody h.legal hgrid hfree)
    exact inv_eat hmove (legal_growBody h.legal hgrid hfree)

theorem inv_renderState {s : State} (h : s.Inv) : (renderState s).Inv := inv_withFb h (renderFb_wf _ _ _ _)

theorem inv_flushState {s : State} (h : s.Inv) : (flushState s).Inv := { h with }

/-! ### The invariant, phase by phase -/

theorem inv_inputPhase {s : State} (h : s.Inv) : (inputPhase s).Inv := by
  rw [inputPhase_eq]
  have hport : State.Inv { s with keyPort := s.keyPort.after 1 } := { h with }
  exact { inv_pollKey hport _ with }

theorem inv_stepPhase {s t : State} (h : s.Inv) (ht : stepPhase s = .next t) : t.Inv := by
  rcases stepPhase_cases s with ⟨_, _, he⟩ | ⟨_, _, he⟩ | ⟨_, he⟩ <;> rw [he] at ht <;> cases ht
  · have hclock : State.Inv { s with
      clockPort := s.clockPort.after 1, lastTick := s.clockPort.answer Config.clockRead 0 } := { h with }
    exact { inv_tickState hclock with }
  · exact { h with }

theorem inv_renderPhase {s : State} (h : s.Inv) : (renderPhase s).Inv := { inv_renderState h with }

theorem inv_flushPhase {s : State} (h : s.Inv) : (flushPhase s).Inv := { inv_flushState h with }

theorem inv_loopPhase {s t : State} (h : s.Inv) (ht : loopPhase s = .next t) : t.Inv := by
  unfold loopPhase at ht
  split at ht
  · cases ht
    exact inv_inputPhase h
  · exact inv_stepPhase h ht
  · cases ht
    exact inv_renderPhase h
  · cases ht
    exact inv_flushPhase h

theorem inv_loopPass {s t : State} (h : s.Inv) (ht : loopPass s = .next t) : t.Inv := by
  unfold loopPass at ht
  split at ht <;> cases ht
  rename_i u hu
  exact inv_flushPhase (inv_renderPhase (inv_stepPhase (inv_inputPhase h) hu))

/-- Every instruction that answers a next state keeps the invariant, kind by kind. -/
theorem inv_exec {i : Instr} {s t : State} (h : s.Inv) (ht : exec i s = .next t) : t.Inv := by
  cases opKind i with
  | draws f _ hf =>
    obtain rfl := hf.next_eq ht
    exact inv_withFb h (hf.wf _ h.fb_wf)
  | getPixel x y =>
    rw [exec_getPixel] at ht
    cases ht
    exact inv_setResult h _
  | gameReset =>
    cases ht
    exact inv_gameReset h.fb_wf
  | placeFood =>
    cases ht
    exact inv_placeFood h
  | pollInput key =>
    cases ht
    exact inv_pollKey h _
  | tick =>
    obtain ⟨-, rfl⟩ := exec_tick_next_iff.1 ht
    exact inv_tickState h
  | render =>
    cases ht
    exact inv_renderState h
  | flush =>
    cases ht
    exact inv_flushState h
  | loopIteration => exact inv_loopPass h ht

/-- Settles O56: a step is a phase of the loop or an instruction on a shorter stream, and both keep the invariant. -/
theorem everyStepKeepsTheInvariant : Obligations.EveryStepKeepsTheInvariant := by
  intro s t h ht
  rcases step_cases ht with ⟨_, hp⟩ | ⟨i, rest, _, he⟩
  · exact inv_loopPhase h hp
  · exact inv_exec (s := { s with stream := rest }) { h with } he

/-! ### Statements on reset -/

/-- Placed food is no segment where the grid has a free cell (R133). -/
theorem chooseFood_free {body : List Point} (p : Port Config.GridCell) {c : Point} (hc : InGrid c) (hfree : c ∉ body) :
    (chooseFood body p).1 ∉ body := by
  rcases chooseFood_cases body p with ⟨k, _, _, hk, he⟩ | ⟨_, ⟨c', hc', he⟩ | ⟨hfull, _⟩⟩
  · rwa [he]
  · rw [he]
    exact (firstFree_some hc').2
  · exact absurd (firstFree_none hfull hc) hfree

theorem startSnake_connected : BodyConnected startSnake := by
  simp only [BodyConnected, startSnake, Snake.cells, List.isChain_cons_cons, List.isChain_singleton, and_true]
  exact ⟨⟨.right, by decide⟩, .right, by decide⟩

/-- Settles O53: the first cell of the grid shows that food finds a free cell beside the start snake. -/
theorem resetHasTheSpecsValues : Obligations.ResetHasTheSpecsValues := by
  have hfree : State.reset.food ∉ State.reset.snake.cells :=
    chooseFood_free (c := pointOf 0 0) Port.fresh (by decide) (by decide)
  exact ⟨rfl, rfl, rfl, rfl, rfl, rfl, chooseFood_inGrid _ _, hfree, rfl, rfl, rfl, rfl, 0, rfl⟩

/-- Settles O55: reset holds a game just reset, with an empty buffer list. -/
theorem resetMeetsTheInvariant : Obligations.ResetMeetsTheInvariant := by
  have hgame : (gameReset State.reset).Inv := inv_gameReset reset_fb_wf
  refine ⟨{ hgame with food_in_grid := chooseFood_inGrid _ _ }, ⟨?_, ?_⟩, startSnake_connected⟩
  · exact (min_eq_left (b := Config.snakeCap) Config.three_le_snakeCap).symm
  · exact (max_eq_left (a := Config.tickBase.toNat) Config.tickFloor_le_tickBase).symm

end Sys2Proof.Machine
end

section
/-! The proofs of the statements on the PixelBuffer: what `getPixel` reads after `setPixel`, and that drawing twice is drawing
once, by the shape that every drawing operation gives to each byte. -/

namespace Sys2Proof.Machine

/-! ### Pixels named by operand bytes (R61, R81) -/

theorem coord_inj {x y : Byte} : coord x = coord y ↔ x = y := by
  rw [coord, coord, Int.ofNat_inj, BitVec.toNat_inj]

theorem inBuffer_coord_iff {x y : Byte} : InBuffer (coord x) (coord y) ↔ x.toNat < 132 ∧ y.toNat < 48 := by
  simp only [InBuffer, coord, Config.W_eq, Config.H_eq]
  omega

/-- Settles O14, by whether the pixel read is the one written and whether it lies in the buffer. -/
theorem getPixelAfterSetPixel : Obligations.GetPixelAfterSetPixel := by
  intro x y x' y' on s t h
  cases h
  refine ⟨_, _, exec_getPixel x' y' _, exec_getPixel x' y' s, ?_⟩
  rw [State.setResult_result, State.setResult_result, readPixel_writePixel]
  simp only [coord_inj, inBuffer_coord_iff]
  by_cases hsame : x' = x ∧ y' = y
  · obtain ⟨rfl, rfl⟩ := hsame
    by_cases hb : x'.toNat < 132 ∧ y'.toNat < 48
    · simp [hb]
    · simp [hb, readPixel_outside s.fb (mt inBuffer_coord_iff.1 hb)]
  · rw [if_neg fun hh => hsame hh.2, if_neg hsame]

/-! ### What drawing makes of one byte (R48) -/

/-- Of each byte `f` keeps the bits of a fixed mask and lights fixed bits. Setting and clearing a pixel, storing a byte and
ORing one in are all of this shape; it passes to compositions, and repeating it changes nothing (R48). -/
def MasksBytes (f : Memory → Memory) : Prop :=
  ∃ keep light : Nat → Byte, ∀ m a, readByte (f m) a = readByte m a &&& keep a ||| light a

/-- Keeping and lighting bits after another such step is one such step. -/
theorem and_or_and_or (b k v k' v' : Byte) :
    (b &&& k ||| v) &&& k' ||| v' = b &&& (k &&& k') ||| (v &&& k' ||| v') := by
  rw [BitVec.and_or_distrib_right, BitVec.and_assoc, BitVec.or_assoc]

/-- Keeping and lighting the same bits again has no effect. -/
theorem and_or_twice (b k v : Byte) : (b &&& k ||| v) &&& k ||| v = b &&& k ||| v := by
  have habsorb : v &&& k ||| v = v := by
    ext i hi
    rw [BitVec.getElem_or, BitVec.getElem_and]
    cases v[i] <;> simp
  rw [and_or_and_or, BitVec.and_self, habsorb]

theorem MasksBytes.sameBytes {f : Memory → Memory} (hf : MasksBytes f) (m : Memory) : SameBytes (f (f m)) (f m) := by
  obtain ⟨keep, light, h⟩ := hf
  intro a
  rw [h, h, and_or_twice]

/-! ### The shape is kept by what operations are made of -/

theorem masksBytes_id : MasksBytes fun m => m :=
  ⟨fun _ => BitVec.allOnes 8, fun _ => 0#8, fun m a => by simp only [BitVec.and_allOnes, BitVec.or_zero]⟩

theorem masksBytes_const (c : Memory) : MasksBytes fun _ => c :=
  ⟨fun _ => 0#8, readByte c, fun m a => by simp only [BitVec.and_zero, BitVec.zero_or]⟩

theorem MasksBytes.comp {f g : Memory → Memory} (hg : MasksBytes g) (hf : MasksBytes f) :
    MasksBytes fun m => g (f m) := by
  obtain ⟨keep, light, hf⟩ := hf
  obtain ⟨keep', light', hg⟩ := hg
  exact ⟨fun a => keep a &&& keep' a, fun a => light a &&& keep' a ||| light' a, fun m a => by
    rw [hg, hf, and_or_and_or]⟩

theorem masksBytes_ite (p : Prop) [Decidable p] {f g : Memory → Memory} (hf : MasksBytes f) (hg : MasksBytes g) :
    MasksBytes fun m => if p then f m else g m := by
  by_cases hp : p
  · simpa only [if_pos hp] using hf
  · simpa only [if_neg hp] using hg

theorem masksBytes_foldl {α : Type} {f : Memory → α → Memory} (hf : ∀ x, MasksBytes fun m => f m x) (xs : List α) :
    MasksBytes fun m => xs.foldl f m := by
  induction xs with
  | nil => exact masksBytes_id
  | cons x xs ih => exact ih.comp (hf x)

/-! ### The operations on bytes -/

/-- A byte replaced by some of its own bits and fixed ones; outside the buffer there is no byte to replace. -/
theorem masksBytes_updateByte (a₀ : Nat) (k v : Byte) :
    MasksBytes fun m => writeByte m a₀ (readByte m a₀ &&& k ||| v) := by
  refine ⟨fun a => if a = a₀ ∧ a₀ < Config.FB_BYTES then k else BitVec.allOnes 8,
    fun a => if a = a₀ ∧ a₀ < Config.FB_BYTES then v else 0#8, fun m a => ?_⟩
  rw [readByte_writeByte]
  by_cases ha : a = a₀ ∧ a₀ < Config.FB_BYTES
  · simp only [if_pos ha]
    rw [ha.1]
  · simp only [if_neg ha, BitVec.and_allOnes, BitVec.or_zero]

theorem masksBytes_writeByte (a : Nat) (b : Byte) : MasksBytes fun m => writeByte m a b := by
  simpa only [BitVec.and_zero, BitVec.zero_or] using masksBytes_updateByte a 0#8 b

/-- The bits of `v` lit in one byte. -/
theorem masksBytes_orInByte (a : Nat) (v : Byte) : MasksBytes fun m => writeByte m a (readByte m a ||| v) := by
  simpa only [BitVec.and_allOnes] using masksBytes_updateByte a (BitVec.allOnes 8) v

/-- Of one byte only the bits of `k` kept. -/
theorem masksBytes_andInByte (a : Nat) (k : Byte) : MasksBytes fun m => writeByte m a (readByte m a &&& k) := by
  simpa only [BitVec.or_zero] using masksBytes_updateByte a k 0#8

theorem masksBytes_writeBytes (a : Nat) (bs : List Byte) : MasksBytes fun m => writeBytes m a bs := by
  induction bs generalizing a with
  | nil => exact masksBytes_id
  | cons b bs ih => exact (ih (a + 1)).comp (masksBytes_writeByte a b)

theorem masksBytes_orByte (p x : Nat) (v : Byte) : MasksBytes fun m => orByte m p x v :=
  masksBytes_ite _ (masksBytes_orInByte _ v) masksBytes_id

/-! ### The drawing operations -/

theorem masksBytes_writePixel (x y : Int) (on : Bool) : MasksBytes fun m => writePixel m x y on := by
  refine masksBytes_ite _ ?_ masksBytes_id
  cases on
  · exact masksBytes_andInByte _ _
  · exact masksBytes_orInByte _ _

theorem masksBytes_plotAll (ps : List Pixel) : MasksBytes fun m => plotAll m ps :=
  masksBytes_foldl (fun p : Pixel => masksBytes_writePixel p.1 p.2 true) ps

theorem masksBytes_blankColumns (page col n : Nat) : MasksBytes (blankColumns page col n) :=
  masksBytes_foldl (fun _ => masksBytes_ite _ (masksBytes_writeByte _ 0) masksBytes_id) _

theorem masksBytes_drawCharFb (page col : Nat) (c : Byte) (f : Font) (spacing : Nat) :
    MasksBytes fun m => drawCharFb m page col c f spacing := by
  have hglyph : MasksBytes fun m =>
      if col + glyphWidth f ≤ Config.W then writeBytes m (fbAddr page col) (glyph f c) else m :=
    masksBytes_ite _ (masksBytes_writeBytes _ _) masksBytes_id
  exact masksBytes_ite _ masksBytes_id ((masksBytes_blankColumns page (col + glyphWidth f) spacing).comp hglyph)

theorem masksBytes_drawTextFb (page : Nat) (f : Font) (col : Nat) (text : List Byte) :
    MasksBytes fun m => drawTextFb page f m col text := by
  induction text generalizing col with
  | nil => exact masksBytes_id
  | cons c cs ih =>
    exact masksBytes_ite _ masksBytes_id ((ih (col + pitch f)).comp (masksBytes_drawCharFb page col c f _))

theorem masksBytes_orSourceByte (y sp dx : Nat) (v : Byte) : MasksBytes fun m => orSourceByte m y sp dx v :=
  masksBytes_ite _ masksBytes_id <| masksBytes_ite _ (masksBytes_orByte _ _ _) <|
    (masksBytes_orByte _ _ _).comp (masksBytes_orByte _ _ _)

theorem masksBytes_drawBitmapFb (x y : Nat) (bitmap : List Byte) (w pages : Nat) :
    MasksBytes fun m => drawBitmapFb m x y bitmap w pages := by
  refine masksBytes_foldl (fun p => ?_) _
  cases bitmap[p.1 * w + p.2]? with
  | none => exact masksBytes_id
  | some v => exact masksBytes_orSourceByte _ _ _ v

/-- An operation that changes the PixelBuffer by a masking `f` and nothing else can be repeated without effect on a byte. -/
theorem MasksBytes.exec_twice {f : Memory → Memory} (hf : MasksBytes f) {i : Instr}
    (hi : ∀ s, exec i s = .next { s with fb := f s.fb }) {s t : State} (h : exec i s = .next t) :
    ∃ u, exec i t = .next u ∧ SameBytes u.fb t.fb := by
  rw [hi] at h
  cases h
  exact ⟨_, hi _, hf.sameBytes s.fb⟩

/-- Settles O30: each drawing operation masks bytes; `render` reads no byte of the buffer at all. -/
theorem drawingTwiceIsDrawingOnce : Obligations.DrawingTwiceIsDrawingOnce := by
  intro i s t hi h
  cases i with
  | clearBuffer => exact (masksBytes_const clearedFb).exec_twice (fun _ => rfl) h
  | setPixel x y on => exact (masksBytes_writePixel (coord x) (coord y) on).exec_twice (fun _ => rfl) h
  | drawHLine | drawVLine | drawLine | drawRect | fillRect | drawCircle | drawTriangle | fillTriangle =>
    exact (masksBytes_plotAll _).exec_twice (fun _ => rfl) h
  | drawChar page col char font spacing =>
    exact (masksBytes_drawCharFb page.toNat col.toNat char font spacing.toNat).exec_twice (fun _ => rfl) h
  | drawText page col text font =>
    exact (masksBytes_drawTextFb page.toNat font col.toNat text).exec_twice (fun _ => rfl) h
  | drawNumber page col value font =>
    exact (masksBytes_drawTextFb page.toNat font col.toNat (dec value.toInt)).exec_twice (fun _ => rfl) h
  | drawBitmap x y bitmap w h' =>
    exact (masksBytes_drawBitmapFb x.toNat y.toNat bitmap w.toNat (bitmapPages h')).exec_twice (fun _ => rfl) h
  | render =>
    cases h
    exact ⟨_, rfl, fun _ => rfl⟩
  | getPixel | gameReset | pollInput | tick | flush | placeFood | loopIteration => exact hi.elim

end Sys2Proof.Machine
end

section
/-! The proofs of the statements on the encoding (30_encoding.md): which bytes are an encoding of an operation, that the
decoder reads exactly those, and what a step makes of them. The statements rest on `decode_eq_ok_iff`. -/

namespace Sys2Proof.Machine

/-! ### The operands that are more than bytes (R62, R65, R67) -/

theorem fontOfCode_eq_some_iff {b : Byte} {f : Font} : fontOfCode b = some f ↔ b = f.code := by
  unfold fontOfCode
  split
  · subst b
    cases f <;> decide
  · split
    · subst b
      cases f <;> decide
    · cases f <;> exact iff_of_false nofun ‹_›

theorem fontOfCode_reserved {b : Byte} (h : 2 ≤ b.toNat) : fontOfCode b = none := by
  refine Option.eq_none_iff_forall_ne_some.2 fun f hf => ?_
  obtain rfl := fontOfCode_eq_some_iff.1 hf
  cases f <;> exact absurd h (by decide)

theorem withFont_eq_ok_iff {b : Byte} {r rest : List Byte} {k : Font → Instr} {i : Instr} :
    withFont b r k = .ok (i, rest) ↔ ∃ f, b = f.code ∧ k f = i ∧ r = rest := by
  simp only [← fontOfCode_eq_some_iff, withFont]
  cases fontOfCode b <;> simp

theorem withFont_reserved {b : Byte} (h : 2 ≤ b.toNat) (r : List Byte) (k : Font → Instr) :
    withFont b r k = .error .reservedFont := by
  rw [withFont, fontOfCode_reserved h]

theorem wordOfBytes_byteOfWord (v : Word) :
    wordOfBytes (byteOfWord v 0) (byteOfWord v 1) (byteOfWord v 2) (byteOfWord v 3) = v := by
  unfold wordOfBytes byteOfWord
  rw [BitVec.extractLsb'_append_extractLsb'_eq_extractLsb' (by rfl),
    BitVec.extractLsb'_append_extractLsb'_eq_extractLsb' (by rfl),
    BitVec.extractLsb'_append_extractLsb'_eq_extractLsb' (by rfl)]
  exact BitVec.extractLsb'_eq_self

theorem bytes_of_wordOfBytes (v0 v1 v2 v3 : Byte) :
    byteOfWord (wordOfBytes v0 v1 v2 v3) 0 = v0 ∧ byteOfWord (wordOfBytes v0 v1 v2 v3) 1 = v1 ∧
      byteOfWord (wordOfBytes v0 v1 v2 v3) 2 = v2 ∧ byteOfWord (wordOfBytes v0 v1 v2 v3) 3 = v3 := by
  have h0 : byteOfWord (wordOfBytes v0 v1 v2 v3) 0 = v0 := BitVec.extractLsb'_append_eq_right
  have h1 : byteOfWord (wordOfBytes v0 v1 v2 v3) 1 = v1 :=
    (BitVec.extractLsb'_append_eq_of_le (by decide)).trans BitVec.extractLsb'_append_eq_right
  have h2 : byteOfWord (wordOfBytes v0 v1 v2 v3) 2 = v2 :=
    (BitVec.extractLsb'_append_eq_of_le (by decide)).trans
      ((BitVec.extractLsb'_append_eq_of_le (by decide)).trans BitVec.extractLsb'_append_eq_right)
  have h3 : byteOfWord (wordOfBytes v0 v1 v2 v3) 3 = v3 :=
    (BitVec.extractLsb'_append_eq_of_le (by decide)).trans
      ((BitVec.extractLsb'_append_eq_of_le (by decide)).trans BitVec.extractLsb'_append_eq_left)
  exact ⟨h0, h1, h2, h3⟩

/-- The count byte of a text holds its length (R67). -/
theorem toNat_textCount {text : List Byte} (h : text.length ≤ 255) :
    (BitVec.ofNat 8 text.length).toNat = text.length := by
  rw [BitVec.toNat_ofNat]
  omega

/-! ### The decoder on the operations with a font or a variable length -/

theorem decode_drawChar (page col char font spacing : Byte) (r : List Byte) :
    decode (0x10 :: page :: col :: char :: font :: spacing :: r) =
      withFont font r fun f => .drawChar page col char f spacing := rfl

theorem decode_drawText {n : Byte} {r : List Byte} (h : n.toNat ≤ r.length) (page col font : Byte) :
    decode (0x11 :: page :: col :: font :: n :: r) =
      withFont font (r.drop n.toNat) fun f => .drawText page col (r.take n.toNat) f :=
  if_neg h.not_gt

theorem decode_drawNumber (page col font v0 v1 v2 v3 : Byte) (r : List Byte) :
    decode (0x12 :: page :: col :: font :: v0 :: v1 :: v2 :: v3 :: r) =
      withFont font r fun f => .drawNumber page col (wordOfBytes v0 v1 v2 v3) f := rfl

theorem decode_drawBitmap {w h : Byte} {r : List Byte} (hr : bitmapBytes w h ≤ r.length) (x y : Byte) :
    decode (0x18 :: x :: y :: w :: h :: r) =
      .ok (.drawBitmap x y (r.take (bitmapBytes w h)) w h, r.drop (bitmapBytes w h)) :=
  if_neg hr.not_gt

/-- The opcode bytes that R63 does not list (R70). -/
theorem decode_reserved {b : Byte} (bs : List Byte)
    (h : (0x0B ≤ b.toNat ∧ b.toNat ≤ 0x0F) ∨ (0x13 ≤ b.toNat ∧ b.toNat ≤ 0x17) ∨
      (0x19 ≤ b.toNat ∧ b.toNat ≤ 0x1F) ∨ 0x27 ≤ b.toNat) : decode (b :: bs) = .error .reservedOpcode := by
  simp only [decode]
  split
  case h_23 => rfl
  all_goals omega

/-! ### The encodings of an operation -/

/-- The bytes that stand for an operation: those `encode` writes, or `setPixel` with any byte for its operand `on`
(R64). -/
inductive EncodingOf : Instr → List Byte → Prop
  | canonical {i : Instr} (h : i.WellFormed) : EncodingOf i (encode i)
  | setPixel (x y on : Byte) : EncodingOf (.setPixel x y (on != 0)) [0x01, x, y, on]

theorem EncodingOf.wellFormed {i : Instr} {code : List Byte} (h : EncodingOf i code) : i.WellFormed := by
  cases h with
  | canonical h => exact h
  | setPixel => rfl

theorem encode_eq_opcode_cons (i : Instr) : ∃ operands, encode i = opcodeOf i :: operands := by
  cases i <;> exact ⟨_, rfl⟩

theorem EncodingOf.eq_opcode_cons {i : Instr} {code : List Byte} (h : EncodingOf i code) :
    ∃ operands, code = opcodeOf i :: operands := by
  cases h with
  | canonical => exact encode_eq_opcode_cons i
  | setPixel => exact ⟨_, rfl⟩

/-- The length R71 gives the operation at the head of a stream is that of its encoding, whatever follows. -/
theorem EncodingOf.opLength_eq {i : Instr} {code : List Byte} (h : EncodingOf i code) (rest : List Byte) :
    opLength (code ++ rest) = some code.length := by
  cases h with
  | setPixel => rfl
  | canonical h =>
    cases i with
    | drawText page col text font => exact Laws.EncodedLength.drawText page col text font h
    | drawBitmap x y bitmap w height => exact Laws.EncodedLength.drawBitmap x y bitmap w height h
    | _ => rfl

/-- Every encoding of an operation decodes to it (R62 to R69). -/
theorem EncodingOf.decode_eq {i : Instr} {code : List Byte} (h : EncodingOf i code) (rest : List Byte) :
    decode (code ++ rest) = .ok (i, rest) := by
  cases h with
  | setPixel => rfl
  | canonical h =>
    cases i with
    | setPixel x y on => cases on <;> rfl
    | drawChar page col char font spacing =>
      exact (decode_drawChar ..).trans (withFont_eq_ok_iff.2 ⟨font, rfl, rfl, rfl⟩)
    | drawText page col text font =>
      have hn := toNat_textCount (of_decide_eq_true h)
      refine (decode_drawText (by simp [hn]) ..).trans (withFont_eq_ok_iff.2 ⟨font, rfl, ?_, ?_⟩)
      · rw [hn]
        exact congrArg (Instr.drawText page col · font) List.take_left
      · rw [hn]
        exact List.drop_left
    | drawNumber page col v font =>
      refine (decode_drawNumber ..).trans (withFont_eq_ok_iff.2 ⟨font, rfl, ?_, rfl⟩)
      rw [wordOfBytes_byteOfWord]
    | drawBitmap x y bitmap w height =>
      have hl : bitmap.length = bitmapBytes w height := of_decide_eq_true h
      refine (decode_drawBitmap (by simp [hl]) ..).trans ?_
      rw [← hl]
      exact congrArg₂ (fun t d => Except.ok (Instr.drawBitmap x y t w height, d)) List.take_left List.drop_left
    | _ => rfl

theorem eq_ofNat_of_toNat_eq {b : Byte} {k : Nat} (h : b.toNat = k) : b = BitVec.ofNat 8 k := by
  rw [← h, BitVec.ofNat_toNat, BitVec.setWidth_eq]

/-- The decoder reads nothing but encodings of operations. -/
theorem exists_encodingOf_of_decode {bs rest : List Byte} {i : Instr} (h : decode bs = .ok (i, rest)) :
    ∃ code, EncodingOf i code ∧ bs = code ++ rest := by
  unfold decode at h
  split at h
  · cases h
  rename_i op r
  split at h
  case h_23 => cases h
  all_goals
    rename_i hop
    obtain rfl := eq_ofNat_of_toNat_eq hop
  case h_1 | h_16 | h_18 | h_19 | h_20 | h_21 | h_22 => -- no operands
    cases h
    exact ⟨_, .canonical rfl, rfl⟩
  case h_2 => -- `setPixel`
    split at h <;> cases h
    exact ⟨_, .setPixel _ _ _, rfl⟩
  case h_3 | h_4 | h_5 | h_6 | h_7 | h_8 | h_9 | h_10 | h_11 | h_17 => -- byte operands only
    split at h <;> cases h
    exact ⟨_, .canonical rfl, rfl⟩
  case h_12 => -- `drawChar`
    split at h
    · obtain ⟨f, rfl, rfl, rfl⟩ := withFont_eq_ok_iff.1 h
      exact ⟨_, .canonical rfl, rfl⟩
    · cases h
  case h_13 => -- `drawText`
    split at h
    · split at h
      · cases h
      rename_i page col font n r hr
      obtain ⟨f, rfl, rfl, rfl⟩ := withFont_eq_ok_iff.1 h
      refine ⟨_, .canonical (decide_eq_true ?_), ?_⟩
      · have hn := n.isLt
        have ht := List.length_take_le n.toNat r
        omega
      · simp [encode, min_eq_left (not_lt.1 hr)]
    · cases h
  case h_14 => -- `drawNumber`
    split at h
    · rename_i page col font v0 v1 v2 v3 r
      obtain ⟨f, rfl, rfl, rfl⟩ := withFont_eq_ok_iff.1 h
      refine ⟨_, .canonical rfl, ?_⟩
      obtain ⟨h0, h1, h2, h3⟩ := bytes_of_wordOfBytes v0 v1 v2 v3
      simp [encode, h0, h1, h2, h3]
    · cases h
  case h_15 => -- `drawBitmap`
    split at h
    · split at h <;> cases h
      rename_i hr
      refine ⟨_, .canonical (decide_eq_true (List.length_take_of_le (not_lt.1 hr))), ?_⟩
      simp [encode]
    · cases h

/-- The decoder reads the encodings of operations and nothing else (R60 to R71). -/
theorem decode_eq_ok_iff {bs rest : List Byte} {i : Instr} :
    decode bs = .ok (i, rest) ↔ ∃ code, EncodingOf i code ∧ bs = code ++ rest := by
  refine ⟨exists_encodingOf_of_decode, ?_⟩
  rintro ⟨code, hcode, rfl⟩
  exact hcode.decode_eq rest

/-! ### The length of an operation (R71) -/

theorem opLength_cons_eq {op : Byte} (h1 : op ≠ 0x11) (h2 : op ≠ 0x18) (r r' : List Byte) :
    opLength (op :: r) = opLength (op :: r') := by
  unfold opLength
  dsimp only
  split
  case h_21 h => exact absurd (eq_ofNat_of_toNat_eq h) h1
  case h_22 h => exact absurd (eq_ofNat_of_toNat_eq h) h2
  all_goals rfl

/-- A text or bitmap operation has no length where the stream ends before the bytes that decide it. -/
theorem opLength_eq_none_of_short {op : Byte} {r : List Byte} (hop : op = 0x11 ∨ op = 0x18) (hr : r.length < 4) :
    opLength (op :: r) = none := by
  match r, hr with
  | [], _ | [_], _ | [_, _], _ | [_, _, _], _ => rcases hop with rfl | rfl <;> rfl

/-- The decoder takes off the length of the operation, which the sequence holds. -/
theorem opLength_of_decode {bs rest : List Byte} {i : Instr} (h : decode bs = .ok (i, rest)) :
    ∃ n, opLength bs = some n ∧ n ≤ bs.length ∧ rest = bs.drop n := by
  obtain ⟨code, hcode, rfl⟩ := decode_eq_ok_iff.1 h
  exact ⟨code.length, hcode.opLength_eq rest, by simp, List.drop_left.symm⟩

/-! ### A step on a stream (R60, R70, R71) -/

/-- A step runs the operation that the stream's head decodes to. -/
theorem step_of_decode_ok {s : State} {i : Instr} {rest : List Byte} (h : decode s.stream = .ok (i, rest)) :
    step s = exec i { s with stream := rest } := by
  unfold step
  split
  · rename_i hs
    rw [hs] at h
    cases h
  · rename_i hs
    rw [← hs, h]

/-- A step on a stream that does not decode is refused by the name of the error. -/
theorem step_of_decode_error {s : State} {b : Byte} {bs : List Byte} {e : DecodeError} (hs : s.stream = b :: bs)
    (h : decode (b :: bs) = .error e) : step s = .refused (refusalOf e) := by
  simp only [step, hs, h]

/-- A step on a stream that is too short for its operation, or to tell its length, is refused. -/
theorem step_refused_of_short {s : State} {b : Byte} {bs : List Byte} (hs : s.stream = b :: bs)
    (h : ∀ n, opLength (b :: bs) = some n → (b :: bs).length < n) : ∃ e, step s = .refused e := by
  cases hd : decode (b :: bs) with
  | error e => exact ⟨_, step_of_decode_error hs hd⟩
  | ok p =>
    obtain ⟨n, hn, hle, -⟩ := opLength_of_decode (i := p.1) (rest := p.2) hd
    exact absurd (h n hn) hle.not_gt

/-! ### The stream is not written (R60) -/

theorem loopPass_stream {s t : State} (h : loopPass s = .next t) : t.stream = s.stream := by
  unfold loopPass at h
  split at h <;> cases h
  rename_i u hu
  exact (stepPhase_next hu).2.trans (inputPhase_stream s)

theorem exec_stream {i : Instr} {s t : State} (h : exec i s = .next t) : t.stream = s.stream := by
  cases opKind i with
  | draws f _ hf =>
    rw [hf.next_eq h]
  | getPixel | gameReset | placeFood | render | flush =>
    cases h
    simp
  | pollInput key =>
    cases h
    exact (pollKey_onlyGame _ s).stream
  | tick =>
    obtain ⟨-, rfl⟩ := exec_tick_next_iff.1 h
    exact (tickState_onlyGame s).stream
  | loopIteration => exact loopPass_stream h

/-! ### The statements -/

/-- Settles O1: what `encode` writes is an encoding of the operation. -/
theorem decodeEncodeRoundTrip : Obligations.DecodeEncodeRoundTrip :=
  fun _ rest h => (EncodingOf.canonical h).decode_eq rest

/-- Settles O2: by `decode_eq_ok_iff` what decodes is as long as its encoding, so a shorter stream does not decode. -/
theorem decodeConsumesTheOperationsLength : Obligations.DecodeConsumesTheOperationsLength := by
  refine ⟨fun bs i rest h => ?reads, fun op r r' h1 h2 => opLength_cons_eq h1 h2 r r',
    fun page col font n x y w h r => ⟨rfl, rfl⟩, fun s n hn hlt => ?short, fun s op r hs hop hr => ?undecided⟩
  case reads =>
    obtain ⟨code, hcode, -⟩ := decode_eq_ok_iff.1 h
    exact ⟨hcode.wellFormed, opLength_of_decode h⟩
  case short =>
    cases hs : s.stream with
    | nil =>
      rw [hs] at hn
      cases hn
    | cons b bs =>
      rw [hs] at hn hlt
      refine step_refused_of_short hs fun m hm => ?_
      cases hn.symm.trans hm
      exact hlt
  case undecided =>
    refine step_refused_of_short hs fun m hm => ?_
    cases (opLength_eq_none_of_short hop hr).symm.trans hm

/-- Settles O7, by the kinds of operations. -/
theorem noInstructionTouchesTheStream : Obligations.NoInstructionTouchesTheStream :=
  fun _ _ _ h => exec_stream h

/-- Settles O3: an encoding of an operation starts with its opcode. -/
theorem opcodeByteSelectsTheOperation : Obligations.OpcodeByteSelectsTheOperation := by
  refine ⟨fun bs i rest h => ?_, fun i => ?_⟩
  · obtain ⟨code, hcode, rfl⟩ := decode_eq_ok_iff.1 h
    obtain ⟨operands, rfl⟩ := hcode.eq_opcode_cons
    rfl
  · obtain ⟨operands, h⟩ := encode_eq_opcode_cons i
    rw [h]
    rfl

/-- Settles O4: the decoder refuses each of them by name. -/
theorem reservedEncodingsAreRefused : Obligations.ReservedEncodingsAreRefused := by
  refine ⟨fun s b bs hs hb => ?opcode, fun s page col char font spacing r hf hs => ?char,
    fun s page col font n r hf hn hs => ?text, fun s page col font v0 v1 v2 v3 r hf hs => ?number⟩
  case opcode => exact step_of_decode_error hs (decode_reserved bs hb)
  case char => exact step_of_decode_error hs ((decode_drawChar ..).trans (withFont_reserved hf _ _))
  case text => exact step_of_decode_error hs ((decode_drawText hn ..).trans (withFont_reserved hf _ _))
  case number => exact step_of_decode_error hs ((decode_drawNumber ..).trans (withFont_reserved hf _ _))

/-- Settles O5: the decoder evaluated on each word. -/
theorem sampleWordsDecode : Obligations.SampleWordsDecode :=
  ⟨rfl, rfl, rfl, rfl, rfl, rfl, rfl⟩

/-- Settles O6: an empty stream, where the built-in loop steps instead, does not decode. -/
theorem stepRunsTheDecodedInstruction : Obligations.StepRunsTheDecodedInstruction :=
  fun _ _ _ h => step_of_decode_ok h

/-- Settles O59: with any byte for `on` the four bytes are an encoding of `setPixel`. -/
theorem onByteIsTrueUnlessZero : Obligations.OnByteIsTrueUnlessZero :=
  fun x y on r => (EncodingOf.setPixel x y on).decode_eq r

end Sys2Proof.Machine
end

section
/-! The proofs of the statements on pixels, lines and rectangles (40_pixel_primitives.md R80 to R87). First which pixels each
trace holds; the walk of `drawLine` turns on where its error term stays. Then the statements. -/

namespace Sys2Proof.Machine

/-! ### Bytes and pixels named by operand bytes (R42, R61, R80) -/

theorem lookup_map_const {as : List Nat} {a : Nat} (b : Byte) (h : a ∈ as) :
    Memory.lookup (as.map fun k => (k, b)) a = some b := by
  induction as with
  | nil => exact absurd h List.not_mem_nil
  | cons k as ih =>
    rw [List.map_cons, Memory.lookup]
    by_cases hk : k = a
    · rw [if_pos hk]
    · rw [if_neg hk, ih (List.mem_of_ne_of_mem (Ne.symm hk) h)]

/-- Every byte of the cleared buffer is `0x00` (R80). -/
theorem readByte_clearedFb {a : Nat} (h : a < Config.FB_BYTES) : readByte clearedFb a = 0 := by
  rw [readByte, clearedFb, lookup_map_const 0 (List.mem_range.2 h), Option.getD_some]

theorem fbAddr_lt {p x : Nat} (hp : p < 6) (hx : x < 132) : fbAddr p x < Config.FB_BYTES := by
  rw [fbAddr, Config.W_eq, Config.FB_BYTES_eq]
  omega

theorem coord_eq_zero_iff {b : Byte} : coord b = 0 ↔ b = 0 := coord_inj (y := 0)

theorem coord_nonneg (b : Byte) : 0 ≤ coord b := Int.natCast_nonneg _

theorem pixelAddr_coord (x y : Byte) : pixelAddr (coord x) (coord y) = fbAddr (y.toNat / 8) x.toNat := rfl

theorem pixelBit_coord (y : Byte) : pixelBit (coord y) = y.toNat % 8 := rfl

/-! ### Rectangles (R86, R87) -/

theorem mem_rectPoints {x y w h px py : Int} (hw : 0 ≤ w) (hh : 0 ≤ h) :
    (px, py) ∈ rectPoints x y w h ↔ InBuffer px py ∧ w ≠ 0 ∧ h ≠ 0 ∧
      ((x ≤ px ∧ px ≤ x + w - 1 ∧ (py = y ∨ py = y + h - 1)) ∨
        (y ≤ py ∧ py ≤ y + h - 1 ∧ (px = x ∨ px = x + w - 1))) := by
  unfold rectPoints
  by_cases hz : w = 0 ∨ h = 0
  · rw [if_pos hz]
    exact ⟨fun hm => absurd hm List.not_mem_nil, by omega⟩
  · rw [if_neg hz]
    simp only [List.mem_append, mem_hlinePoints, mem_vlinePoints]
    omega

theorem mem_fillRectPoints {x y w h px py : Int} :
    (px, py) ∈ fillRectPoints x y w h ↔ w ≠ 0 ∧ h ≠ 0 ∧ InBuffer x y ∧
      x ≤ px ∧ px ≤ min (x + w - 1) 131 ∧ y ≤ py ∧ py ≤ min (y + h - 1) 47 := by
  unfold fillRectPoints
  by_cases hz : w = 0 ∨ h = 0
  · rw [if_pos hz]
    exact ⟨fun hm => absurd hm List.not_mem_nil, by omega⟩
  by_cases hb : InBuffer x y
  · rw [if_neg hz, if_neg (not_not_intro hb)]
    simp only [List.mem_flatMap, List.mem_map, mem_intRange, Prod.mk.injEq, Config.W_eq, Config.H_eq]
    constructor
    · rintro ⟨yy, hy, xx, hx, rfl, rfl⟩
      exact ⟨by omega, by omega, hb, by omega⟩
    · rintro ⟨-, -, -, hx⟩
      exact ⟨py, by omega, px, by omega, rfl, rfl⟩
  · rw [if_neg hz, if_pos hb]
    exact ⟨fun hm => absurd hm List.not_mem_nil, fun hm => absurd hm.2.2.1 hb⟩

/-! ### The walk of `drawLine` (R85)

Along the longer axis the walk steps at every iteration, because the error term stays between two bounds. After the last
iteration the same bounds leave one value for the number of steps along the shorter axis. -/

/-- One iteration, coordinate by coordinate. -/
theorem bresenhamStep_eq (dx dy sx sy x y e : Int) :
    bresenhamStep dx dy sx sy (x, y, e) =
      (if 2 * e > -dy then x + sx else x, if 2 * e < dx then y + sy else y,
        e - (if 2 * e > -dy then dy else 0) + (if 2 * e < dx then dx else 0)) := by
  unfold bresenhamStep
  by_cases hx : 2 * e > -dy <;> by_cases hy : 2 * e < dx <;> simp [hx, hy]

/-- A state of the walk with the two axes exchanged; the error term changes its sign. -/
def exchangeAxes (p : Int × Int × Int) : Int × Int × Int := (p.2.1, p.1, -p.2.2)

theorem bresenhamStep_exchangeAxes (dx dy sx sy : Int) (p : Int × Int × Int) :
    bresenhamStep dy dx sy sx (exchangeAxes p) = exchangeAxes (bresenhamStep dx dy sx sy p) := by
  obtain ⟨x, y, e⟩ := p
  have hx : 2 * -e > -dx ↔ 2 * e < dx := by omega
  have hy : 2 * -e < dy ↔ 2 * e > -dy := by omega
  simp only [exchangeAxes, bresenhamStep_eq, hx, hy, Prod.mk.injEq, true_and]
  omega

theorem bresenhamPoint_succ (x0 y0 x1 y1 : Int) (k : Nat) :
    bresenhamPoint x0 y0 x1 y1 (k + 1) =
      bresenhamStep |x1 - x0| |y1 - y0| (if x0 < x1 then 1 else -1) (if y0 < y1 then 1 else -1)
        (bresenhamPoint x0 y0 x1 y1 k) :=
  Function.iterate_succ_apply' ..

theorem bresenhamPoint_exchangeAxes (x0 y0 x1 y1 : Int) (k : Nat) :
    bresenhamPoint y0 x0 y1 x1 k = exchangeAxes (bresenhamPoint x0 y0 x1 y1 k) := by
  induction k with
  | zero => simp [bresenhamPoint, exchangeAxes]
  | succ k ih => rw [bresenhamPoint_succ, bresenhamPoint_succ, ih, bresenhamStep_exchangeAxes]

/-- The state `p` of a walk that is no steeper than a diagonal, after `k` iterations: `k` steps along x, `j` along y, and
the error term between its bounds. -/
structure StepsAlongX (x0 y0 dx dy sx sy : Int) (k j : Nat) (p : Int × Int × Int) : Prop where
  x_eq : p.1 = x0 + k * sx
  y_eq : p.2.1 = y0 + j * sy
  err_eq : p.2.2 = (j + 1) * dx - (k + 1) * dy
  lower : -dy < 2 * p.2.2
  upper : 2 * p.2.2 < 3 * dx - 2 * dy

/-- The error term between its bounds makes the next iteration step along x and puts the new one there again. -/
theorem StepsAlongX.step {x0 y0 dx dy sx sy : Int} {k j : Nat} {p : Int × Int × Int} (hdy : 0 ≤ dy) (hle : dy ≤ dx)
    (h : StepsAlongX x0 y0 dx dy sx sy k j p) :
    ∃ j', StepsAlongX x0 y0 dx dy sx sy (k + 1) j' (bresenhamStep dx dy sx sy p) := by
  obtain ⟨x, y, e⟩ := p
  obtain ⟨hx, hy, he, hlower, hupper⟩ := h
  dsimp only at hx hy he hlower hupper
  rw [bresenhamStep_eq, if_pos hlower, if_pos hlower]
  by_cases hstep : 2 * e < dx
  · rw [if_pos hstep, if_pos hstep]
    refine ⟨j + 1, ?_, ?_, ?_, ?_, ?_⟩ <;> push_cast
    · linear_combination hx
    · linear_combination hy
    · linear_combination he
    · omega
    · omega
  · rw [if_neg hstep, if_neg hstep]
    refine ⟨j, ?_, hy, ?_, ?_, ?_⟩ <;> push_cast
    · linear_combination hx
    · linear_combination he
    · omega
    · omega

theorem bresenhamPoint_stepsAlongX {x0 y0 x1 y1 : Int} (hle : |y1 - y0| ≤ |x1 - x0|) (hpos : 0 < |x1 - x0|) (k : Nat) :
    ∃ j, StepsAlongX x0 y0 |x1 - x0| |y1 - y0| (if x0 < x1 then 1 else -1) (if y0 < y1 then 1 else -1) k j
      (bresenhamPoint x0 y0 x1 y1 k) := by
  induction k with
  | zero =>
    have hnonneg := abs_nonneg (y1 - y0)
    refine ⟨0, ?_, ?_, ?_, ?_, ?_⟩ <;> simp only [bresenhamPoint, Function.iterate_zero, id_eq] <;> omega
  | succ k ih =>
    obtain ⟨j, hj⟩ := ih
    rw [bresenhamPoint_succ]
    exact hj.step (abs_nonneg _) hle

/-- After the last of `dx` iterations the bounds on the error term leave only `dy` steps along y. -/
theorem StepsAlongX.minor_eq {x0 y0 dx dy sx sy : Int} {k j : Nat} {p : Int × Int × Int} (hdx : 0 < dx) (hdy : 0 ≤ dy)
    (hk : (k : Int) = dx) (h : StepsAlongX x0 y0 dx dy sx sy k j p) : (j : Int) = dy := by
  obtain ⟨-, -, he, hlower, hupper⟩ := h
  rw [he, hk] at hlower hupper
  have hge : 0 < (j : Int) + 1 - dy := by
    refine pos_of_mul_pos_right (a := dx) ?_ hdx.le
    linarith
  have hlt : (j : Int) - dy < 1 := by
    refine lt_of_mul_lt_mul_left (a := dx) ?_ hdx.le
    linarith
  omega

/-- The end of one axis is its distance away in the direction of its step. -/
theorem end_eq_add_abs_mul (a b : Int) : b = a + |b - a| * (if a < b then 1 else -1) := by
  by_cases h : a < b
  · rw [if_pos h, abs_of_pos (by omega)]
    omega
  · rw [if_neg h, abs_of_nonpos (by omega)]
    omega

/-- Along x every iteration of a walk no steeper than a diagonal makes one step; it is at the end point after `|x1 - x0|`
iterations and not before. -/
theorem bresenhamPoint_eq_end_iff_of_le {x0 y0 x1 y1 : Int} (hle : |y1 - y0| ≤ |x1 - x0|) {k : Nat}
    (hk : (k : Int) ≤ |x1 - x0|) :
    ((bresenhamPoint x0 y0 x1 y1 k).1 = x1 ∧ (bresenhamPoint x0 y0 x1 y1 k).2.1 = y1) ↔ (k : Int) = |x1 - x0| := by
  rcases (abs_nonneg (x1 - x0)).eq_or_lt with hzero | hpos
  · have hx : x1 = x0 := sub_eq_zero.1 (abs_eq_zero.1 hzero.symm)
    have hy : y1 = y0 := sub_eq_zero.1 (abs_nonpos_iff.1 (hzero ▸ hle))
    obtain rfl : k = 0 := by omega
    simp [bresenhamPoint, hx, hy]
  obtain ⟨j, hj⟩ := bresenhamPoint_stepsAlongX hle hpos k
  have hxend := end_eq_add_abs_mul x0 x1
  constructor
  · rintro ⟨hx, -⟩
    have hsteps := hj.x_eq
    split_ifs at hsteps hxend <;> omega
  · intro hkx
    rw [hj.x_eq, hj.y_eq, hj.minor_eq hpos (abs_nonneg _) hkx, hkx]
    exact ⟨hxend.symm, (end_eq_add_abs_mul y0 y1).symm⟩

/-- The walk is at its end point after `max(dx,dy)` iterations and not before (R85). -/
theorem bresenhamPoint_eq_end_iff {x0 y0 x1 y1 : Int} {k : Nat} (hk : k ≤ (max |x1 - x0| |y1 - y0|).toNat) :
    ((bresenhamPoint x0 y0 x1 y1 k).1 = x1 ∧ (bresenhamPoint x0 y0 x1 y1 k).2.1 = y1) ↔
      k = (max |x1 - x0| |y1 - y0|).toNat := by
  have hdx := abs_nonneg (x1 - x0)
  have hdy := abs_nonneg (y1 - y0)
  rcases le_total |y1 - y0| |x1 - x0| with hle | hle
  · rw [max_eq_left hle] at hk ⊢
    rw [bresenhamPoint_eq_end_iff_of_le hle (by omega)]
    omega
  · rw [max_eq_right hle] at hk ⊢
    rw [bresenhamPoint_exchangeAxes y0 x0 y1 x1, exchangeAxes, and_comm,
      bresenhamPoint_eq_end_iff_of_le hle (by omega)]
    omega

/-- A loop that does not meet its end point before its last iteration visits the iterates of its step. -/
theorem lineWalk_eq_map (x1 y1 dx dy sx sy : Int) (n : Nat) (p : Int × Int × Int)
    (h : ∀ k < n, ¬ (((bresenhamStep dx dy sx sy)^[k] p).1 = x1 ∧ ((bresenhamStep dx dy sx sy)^[k] p).2.1 = y1)) :
    lineWalk x1 y1 dx dy sx sy (n + 1) p.1 p.2.1 p.2.2 = (List.range (n + 1)).map fun k =>
      (((bresenhamStep dx dy sx sy)^[k] p).1, ((bresenhamStep dx dy sx sy)^[k] p).2.1) := by
  induction n generalizing p with
  | zero => simp [lineWalk]
  | succ n ih =>
    have hstart : ¬ (p.1 = x1 ∧ p.2.1 = y1) := h 0 n.succ_pos
    have hrest := ih (bresenhamStep dx dy sx sy p) fun k hk => h (k + 1) (Nat.succ_lt_succ hk)
    rw [bresenhamStep_eq] at hrest
    rw [lineWalk, if_neg hstart, hrest, List.range_succ_eq_map (n := n + 1), List.map_cons, List.map_map,
      ← bresenhamStep_eq]
    rfl

/-- The trace of `drawLine` is the walk of R85 up to iteration `max(dx,dy)`. -/
theorem linePoints_eq_map (x0 y0 x1 y1 : Int) :
    linePoints x0 y0 x1 y1 = (List.range ((max |x1 - x0| |y1 - y0|).toNat + 1)).map fun k =>
      ((bresenhamPoint x0 y0 x1 y1 k).1, (bresenhamPoint x0 y0 x1 y1 k).2.1) :=
  lineWalk_eq_map _ _ _ _ _ _ _ (x0, y0, |x1 - x0| - |y1 - y0|) fun _ hk hend =>
    hk.ne ((bresenhamPoint_eq_end_iff hk.le).1 hend)

theorem mem_linePoints {x0 y0 x1 y1 px py : Int} :
    (px, py) ∈ linePoints x0 y0 x1 y1 ↔ ∃ k : Nat, k ≤ (max |x1 - x0| |y1 - y0|).toNat ∧
      px = (bresenhamPoint x0 y0 x1 y1 k).1 ∧ py = (bresenhamPoint x0 y0 x1 y1 k).2.1 := by
  simp only [linePoints_eq_map, List.mem_map, List.mem_range, Nat.lt_succ_iff, Prod.mk.injEq, eq_comm]

/-! ### Statements on pixels, lines and rectangles -/

/-- What is said of an instruction that writes `m` as the PixelBuffer and nothing else: its frame, and `Q` of what it
leaves. -/
theorem next_of_exec_fb {i : Instr} {s : State} {m : Memory} {Q : State → Prop}
    (hexec : exec i s = .next { s with fb := m }) (hQ : Q { s with fb := m }) :
    ∃ t, exec i s = .next t ∧ t = { s with fb := t.fb } ∧ Q t :=
  ⟨_, hexec, rfl, hQ⟩

/-- An instruction that plots one trace changes the PixelBuffer alone and lights what the trace holds of the buffer. -/
theorem lights_of_plots {i : Instr} {ps : List Pixel} {P : Int → Int → Prop}
    (hexec : ∀ s, exec i s = .next { s with fb := plotAll s.fb ps })
    (hP : ∀ x y, InBuffer x y → ((x, y) ∈ ps ↔ P x y)) (s : State) :
    ∃ t, exec i s = .next t ∧ t = { s with fb := t.fb } ∧ Lights P s.fb t.fb :=
  next_of_exec_fb (hexec s) ((lights_plotAll s.fb ps).congr hP)

/-- Settles O11. -/
theorem clearBufferZeroesEveryByte : Obligations.ClearBufferZeroesEveryByte := by
  intro s
  refine ⟨rfl, next_of_exec_fb (m := clearedFb) rfl fun p x hp hx => ?_⟩
  rw [readByte_clearedFb (fbAddr_lt hp hx)]

/-- Settles O12, by whether the pixel lies in the buffer. -/
theorem setPixelWritesOneBit : Obligations.SetPixelWritesOneBit := by
  intro x y on s
  refine ⟨rfl, next_of_exec_fb rfl ⟨fun hb a => ?_, fun hb => ?_⟩⟩
  · rw [readByte_writePixel s.fb on (inBuffer_coord_iff.2 hb), pixelAddr_coord, pixelMask, pixelBit_coord]
    by_cases ha : a = fbAddr (y.toNat / 8) x.toNat
    · rw [if_pos ha, if_pos ha, ha]
    · rw [if_neg ha, if_neg ha]
  · rw [writePixel_outside s.fb on (mt inBuffer_coord_iff.1 hb)]

/-- Settles O13. -/
theorem getPixelReadsOneBit : Obligations.GetPixelReadsOneBit := by
  intro x y s
  refine ⟨rfl, ?_⟩
  rw [exec_getPixel, State.setResult, readPixel, pixelAddr_coord, pixelBit_coord]
  simp only [inBuffer_coord_iff]

/-- Settles O15. -/
theorem drawHLineLightsTheSpan : Obligations.DrawHLineLightsTheSpan := by
  intro x0 x1 y s
  refine ⟨rfl, lights_of_plots (fun _ => rfl) (fun px py hb => ?_) s⟩
  rw [mem_hlinePoints, and_iff_right hb]
  simp only [coord]
  omega

/-- Settles O16. -/
theorem drawVLineLightsTheSpan : Obligations.DrawVLineLightsTheSpan := by
  intro x y0 y1 s
  refine ⟨rfl, lights_of_plots (fun _ => rfl) (fun px py hb => ?_) s⟩
  rw [mem_vlinePoints, and_iff_right hb]
  rfl

/-- Settles O17: the walk by its error term's bounds, the lit set by the trace being the walk. -/
theorem drawLineWalksToItsEndPoint : Obligations.DrawLineWalksToItsEndPoint :=
  fun _ _ _ _ s => ⟨fun _ hk => bresenhamPoint_eq_end_iff hk, rfl,
    lights_of_plots (fun _ => rfl) (fun _ _ _ => mem_linePoints) s⟩

/-- Settles O18. -/
theorem drawRectLightsTheOutline : Obligations.DrawRectLightsTheOutline := by
  intro x y w h s
  refine ⟨rfl, lights_of_plots (fun _ => rfl) (fun px py hb => ?_) s⟩
  rw [mem_rectPoints (coord_nonneg w) (coord_nonneg h), and_iff_right hb]
  simp only [ne_eq, coord_eq_zero_iff]
  rfl

/-- Settles O19. -/
theorem fillRectLightsTheRectangle : Obligations.FillRectLightsTheRectangle := by
  intro x y w h s
  refine ⟨rfl, lights_of_plots (fun _ => rfl) (fun px py _ => ?_) s⟩
  rw [mem_fillRectPoints, inBuffer_coord_iff]
  simp only [ne_eq, coord_eq_zero_iff, and_assoc]
  rfl

end Sys2Proof.Machine
end

section
/-! The proofs of the statements on circles and triangles (41_circle_triangle.md R100 to R102). First what one iteration of
`drawCircle` plots and which iterations its loop runs; then the scanlines of `fillTriangle` in closed form, and that its sort
leaves no choice but among vertices of one scanline. Then the statements. -/

namespace Sys2Proof.Machine

/-! ### Pictures -/

theorem plotAll_append (m : Memory) (ps qs : List Pixel) : plotAll m (ps ++ qs) = plotAll (plotAll m ps) qs :=
  List.foldl_append ..

/-- A pixel of the buffer is a bit of its byte (R42, R82). -/
theorem readPixel_of_inBuffer (m : Memory) {x y : Int} (h : InBuffer x y) :
    readPixel m x y = (readByte m (pixelAddr x y)).getLsbD (pixelBit y) :=
  if_pos h

/-- Every bit of a byte that holds a buffer pixel is itself a buffer pixel, in the same column (R42). -/
theorem exists_pixel_of_bit {x y : Int} (h : InBuffer x y) {b : Nat} (hb : b < 8) :
    ∃ y', InBuffer x y' ∧ pixelAddr x y' = pixelAddr x y ∧ pixelBit y' = b := by
  have hrow : InBuffer x (y / 8 * 8 + b) := by
    simp only [InBuffer, Config.H_eq] at h ⊢
    omega
  refine ⟨y / 8 * 8 + b, hrow, (pixelAddr_inj hrow h).2 ⟨rfl, by omega⟩, ?_⟩
  unfold pixelBit
  omega

/-- The buffer before and the pixels lit determine every byte of the buffer after. -/
theorem Lights.sameBytes {P : Int → Int → Prop} {m m₁ m₂ : Memory} (h₁ : Lights P m m₁) (h₂ : Lights P m m₂) :
    SameBytes m₁ m₂ := by
  intro a
  by_cases ha : ∃ x y, InBuffer x y ∧ P x y ∧ a = pixelAddr x y
  · obtain ⟨x, y, hxy, -, rfl⟩ := ha
    refine BitVec.eq_of_getLsbD_eq fun b hb => ?_
    obtain ⟨y', hy', haddr, rfl⟩ := exists_pixel_of_bit hxy hb
    rw [← haddr, ← readPixel_of_inBuffer m₁ hy', ← readPixel_of_inBuffer m₂ hy']
    exact Bool.eq_iff_iff.2 ((h₁.1 x y' hy').trans (h₂.1 x y' hy').symm)
  · have hout : ∀ x y, InBuffer x y → P x y → a ≠ pixelAddr x y := fun x y hb hp he => ha ⟨x, y, hb, hp, he⟩
    rw [h₁.2 a hout, h₂.2 a hout]

/-- Of a trace only its set of points matters. -/
theorem sameBytes_plotAll (m : Memory) {ps qs : List Pixel} (h : ∀ p, p ∈ ps ↔ p ∈ qs) :
    SameBytes (plotAll m ps) (plotAll m qs) :=
  (lights_plotAll m ps).sameBytes ((lights_plotAll m qs).congr fun x y _ => (h (x, y)).symm)

theorem exec_drawLine (x0 y0 x1 y1 : Byte) (s : State) :
    exec (.drawLine x0 y0 x1 y1) s =
      .next { s with fb := plotAll s.fb (linePoints (coord x0) (coord y0) (coord x1) (coord y1)) } := rfl

/-! ### The circle (R100) -/

/-- The points of one iteration, by their distances from the centre. -/
theorem mem_octants {cx cy x y px py : Int} :
    (px, py) ∈ octants cx cy x y ↔
      (|px - cx| = |x| ∧ |py - cy| = |y|) ∨ (|px - cx| = |y| ∧ |py - cy| = |x|) := by
  simp only [octants, List.mem_cons, List.not_mem_nil, or_false, Prod.mk.injEq, abs_eq_abs, sub_eq_iff_eq_add',
    ← sub_eq_add_neg, and_or_left, or_and_right, or_assoc]

/-- One turn of the loop, by the step of R100. -/
theorem circleWalk_succ (cx cy : Int) (n : Nat) (p : Int × Int × Int) :
    circleWalk cx cy (n + 1) p.1 p.2.1 p.2.2 =
      if p.2.1 ≤ p.1 then
        octants cx cy p.1 p.2.1 ++ circleWalk cx cy n (midpointStep p).1 (midpointStep p).2.1 (midpointStep p).2.2
      else [] := by
  rw [circleWalk, midpointStep]
  by_cases hd : p.2.2 < 0
  · simp only [if_pos hd, ge_iff_le]
  · simp only [if_neg hd, ge_iff_le]

/-- The loop plots the points of the iterates of its step, as long as its condition held at them all and `n` is not used
up. -/
theorem mem_circleWalk {cx cy : Int} {n : Nat} {p : Int × Int × Int} {q : Pixel} :
    q ∈ circleWalk cx cy n p.1 p.2.1 p.2.2 ↔ ∃ k < n,
      (∀ j ≤ k, (midpointStep^[j] p).2.1 ≤ (midpointStep^[j] p).1) ∧
      q ∈ octants cx cy (midpointStep^[k] p).1 (midpointStep^[k] p).2.1 := by
  induction n generalizing p with
  | zero => simp [circleWalk]
  | succ n ih =>
    rw [circleWalk_succ]
    by_cases hp : p.2.1 ≤ p.1
    · rw [if_pos hp, List.mem_append, ih]
      constructor
      · rintro (hq | ⟨k, hk, hrun, hq⟩)
        · exact ⟨0, n.succ_pos, fun j hj => by rwa [Nat.le_zero.1 hj], hq⟩
        · refine ⟨k + 1, Nat.succ_lt_succ hk, fun j hj => ?_, hq⟩
          cases j with
          | zero => exact hp
          | succ j => exact hrun j (Nat.le_of_succ_le_succ hj)
      · rintro ⟨k, hk, hrun, hq⟩
        cases k with
        | zero => exact .inl hq
        | succ k =>
          exact .inr ⟨k, Nat.lt_of_succ_lt_succ hk, fun j hj => hrun (j + 1) (Nat.succ_le_succ hj), hq⟩
    · rw [if_neg hp]
      exact ⟨fun hq => absurd hq List.not_mem_nil, fun ⟨_, _, hrun, _⟩ => absurd (hrun 0 (Nat.zero_le _)) hp⟩

/-- An iteration steps `y` up by one and never steps `x` up. -/
theorem midpointStep_bounds (p : Int × Int × Int) :
    (midpointStep p).2.1 = p.2.1 + 1 ∧ (midpointStep p).1 ≤ p.1 := by
  unfold midpointStep
  split_ifs
  · exact ⟨rfl, le_rfl⟩
  · exact ⟨rfl, by dsimp only; omega⟩

/-- At the head of iteration `k` the rising variable is `k` and the falling one is at most the radius. -/
theorem midpointAt_bounds (r : Int) (k : Nat) : (midpointAt r k).2.1 = k ∧ (midpointAt r k).1 ≤ r := by
  induction k with
  | zero => exact ⟨rfl, le_rfl⟩
  | succ k ih =>
    rw [midpointAt, Function.iterate_succ_apply', ← midpointAt]
    obtain ⟨hy, hx⟩ := midpointStep_bounds (midpointAt r k)
    exact ⟨by push_cast; omega, by omega⟩

/-- The trace of `drawCircle`: the bound of `r + 1` iterations cuts none off, since the rising variable would pass the
radius. -/
theorem mem_circlePoints {cx cy r px py : Int} :
    (px, py) ∈ circlePoints cx cy r ↔ ∃ k : Nat,
      (∀ j ≤ k, (midpointAt r j).2.1 ≤ (midpointAt r j).1) ∧
      ((|px - cx| = (midpointAt r k).1 ∧ |py - cy| = (midpointAt r k).2.1) ∨
        (|px - cx| = (midpointAt r k).2.1 ∧ |py - cy| = (midpointAt r k).1)) := by
  have hwalk : (px, py) ∈ circlePoints cx cy r ↔ ∃ k < r.toNat + 1,
      (∀ j ≤ k, (midpointAt r j).2.1 ≤ (midpointAt r j).1) ∧
      (px, py) ∈ octants cx cy (midpointAt r k).1 (midpointAt r k).2.1 := mem_circleWalk (p := (r, 0, 1 - r))
  rw [hwalk]
  refine exists_congr fun k => ?_
  rw [and_left_comm]
  refine and_congr_right fun hrun => ?_
  have hk := hrun k le_rfl
  obtain ⟨hy, hx⟩ := midpointAt_bounds r k
  rw [and_iff_right (by omega), mem_octants, abs_of_nonneg (a := (midpointAt r k).1) (by omega),
    abs_of_nonneg (a := (midpointAt r k).2.1) (by omega)]

/-- A point whose distances from the centre, in either order, are those of a plotted point is plotted. -/
theorem mem_circlePoints_of_distances {cx cy r px py qx qy : Int} (h : (px, py) ∈ circlePoints cx cy r)
    (hq : (|qx - cx| = |px - cx| ∧ |qy - cy| = |py - cy|) ∨ (|qx - cx| = |py - cy| ∧ |qy - cy| = |px - cx|)) :
    (qx, qy) ∈ circlePoints cx cy r := by
  rw [mem_circlePoints] at h ⊢
  obtain ⟨k, hrun, hp⟩ := h
  refine ⟨k, hrun, ?_⟩
  rcases hq with ⟨hx, hy⟩ | ⟨hx, hy⟩ <;> rw [hx, hy]
  · exact hp
  · exact hp.symm.imp And.symm And.symm

/-! ### The scanlines of a filled triangle (R102) -/

/-- `n` scanlines in closed form: after `py - y` scanlines an accumulator has grown by that many times its edge's Δx. -/
theorem mem_spans {xa dxa dya xb dxb dyb y sa sb px py : Int} {n : Nat} :
    (px, py) ∈ spans xa dxa dya xb dxb dyb n y sa sb ↔ y ≤ py ∧ py < y + n ∧
      (px, py) ∈ hlinePoints (xa + Int.tdiv (sa + (py - y) * dxa) dya) (xb + Int.tdiv (sb + (py - y) * dxb) dyb) py := by
  induction n generalizing y sa sb with
  | zero => exact ⟨fun h => absurd h List.not_mem_nil, by omega⟩
  | succ n ih =>
    have hacc : ∀ s d : Int, s + d + (py - (y + 1)) * d = s + (py - y) * d := fun s d => by ring
    rw [spans, List.mem_append, ih, hacc, hacc]
    rcases eq_or_ne py y with rfl | hne
    · simp only [sub_self, zero_mul, add_zero, le_refl, true_and]
      exact ⟨fun h => ⟨by omega, h.resolve_right fun hlt => absurd hlt.1 (by omega)⟩, fun h => .inl h.2⟩
    · constructor
      · rintro (hline | ⟨hle, hlt, hspan⟩)
        · exact absurd (mem_hlinePoints.1 hline).2.1 hne
        · exact ⟨by omega, by omega, hspan⟩
      · rintro ⟨hle, hlt, hspan⟩
        exact .inr ⟨by omega, by omega, hspan⟩

/-- The trace for sorted vertices is the closed form of R102: the upper part ends and the lower begins where the closed form
changes edges, and the lower accumulators start at that scanline's multiple of Δx. -/
theorem mem_sortedTrianglePoints {x0 y0 x1 y1 x2 y2 px py : Int} (h01 : y0 ≤ y1) (h12 : y1 ≤ y2) :
    (px, py) ∈ sortedTrianglePoints x0 y0 x1 y1 x2 y2 ↔ InBuffer px py ∧ y0 ≤ py ∧ py ≤ y2 ∧
      if y0 = y2 then min x0 (min x1 x2) ≤ px ∧ px ≤ max x0 (max x1 x2)
      else
        min (triangleSpan x0 y0 x1 y1 x2 y2 py).1 (triangleSpan x0 y0 x1 y1 x2 y2 py).2 ≤ px ∧
          px ≤ max (triangleSpan x0 y0 x1 y1 x2 y2 py).1 (triangleSpan x0 y0 x1 y1 x2 y2 py).2 := by
  unfold sortedTrianglePoints
  by_cases hflat : y0 = y2
  · rw [if_pos hflat, if_pos hflat, mem_hlinePoints]
    omega
  have hacc : ∀ (d u v : Int), d * (u - v) + (py - u) * d = (py - v) * d := fun d u v => by ring
  rw [if_neg hflat, if_neg hflat, List.mem_append, mem_spans, mem_spans, hacc, hacc, mem_hlinePoints, mem_hlinePoints]
  simp only [zero_add, true_and, triangleSpan, lastUpper, InBuffer]
  by_cases hbottom : y1 = y2
  · rw [if_pos hbottom, if_pos (.inl hbottom)]
    omega
  · rw [if_neg hbottom]
    by_cases hupper : py < y1
    · rw [if_pos (.inr hupper)]
      omega
    · rw [if_neg (not_or.2 ⟨hbottom, hupper⟩)]
      omega

/-! ### The sort of the vertices (R102 step 1) -/

theorem orderByY_of_le {a b : Pixel} (h : a.2 ≤ b.2) : orderByY a b = (a, b) := if_neg (not_lt.2 h)

theorem orderByY_of_lt {a b : Pixel} (h : b.2 < a.2) : orderByY a b = (b, a) := if_pos h

theorem sortByY_of_le {a b c : Pixel} (hab : a.2 ≤ b.2) (hbc : b.2 ≤ c.2) : sortByY a b c = (a, b, c) := by
  simp only [sortByY, orderByY_of_le hab, orderByY_of_le hbc]

/-- The points `fillTriangle` plots for three vertices that its sort left in this order. -/
def filledPixels (v : Pixel × Pixel × Pixel) : Set Pixel :=
  {p | p ∈ sortedTrianglePoints v.1.1 v.1.2 v.2.1.1 v.2.1.2 v.2.2.1 v.2.2.2}

theorem mem_fillTrianglePoints {x0 y0 x1 y1 x2 y2 : Int} {p : Pixel} :
    p ∈ fillTrianglePoints x0 y0 x1 y1 x2 y2 ↔ p ∈ filledPixels (sortByY (x0, y0) (x1, y1) (x2, y2)) := Iff.rfl

/-- Two upper vertices on one scanline can be exchanged: the edges from them to the third vertex trade places. -/
theorem filledPixels_swap_upper {a b c : Pixel} (hab : a.2 = b.2) (hbc : b.2 ≤ c.2) :
    filledPixels (a, b, c) = filledPixels (b, a, c) := by
  obtain ⟨xa, ya⟩ := a
  obtain ⟨xb, yb⟩ := b
  obtain ⟨xc, yc⟩ := c
  obtain rfl : ya = yb := hab
  ext ⟨px, py⟩
  simp only [filledPixels, Set.mem_ofPred_eq, mem_sortedTrianglePoints le_rfl hbc]
  refine and_congr_right fun _ => and_congr_right fun htop => and_congr_right fun _ => ?_
  by_cases hflat : ya = yc
  · rw [if_pos hflat, if_pos hflat]
    omega
  · rw [if_neg hflat, if_neg hflat]
    simp only [triangleSpan, if_neg (not_or.2 ⟨hflat, not_lt.2 htop⟩)]
    rw [min_comm, max_comm]

/-- Two lower vertices on one scanline can be exchanged. -/
theorem filledPixels_swap_lower {a b c : Pixel} (hab : a.2 ≤ b.2) (hbc : b.2 = c.2) :
    filledPixels (a, b, c) = filledPixels (a, c, b) := by
  obtain ⟨xa, ya⟩ := a
  obtain ⟨xb, yb⟩ := b
  obtain ⟨xc, yc⟩ := c
  obtain rfl : yb = yc := hbc
  ext ⟨px, py⟩
  simp only [filledPixels, Set.mem_ofPred_eq, mem_sortedTrianglePoints hab le_rfl]
  refine and_congr_right fun _ => and_congr_right fun _ => and_congr_right fun _ => ?_
  by_cases hflat : ya = yb
  · rw [if_pos hflat, if_pos hflat]
    omega
  · rw [if_neg hflat, if_neg hflat]
    simp only [triangleSpan, true_or, if_true]
    rw [min_comm, max_comm]

/-- Exchanging the first two vertices changes the outcome of the sort only if they lie on one scanline. -/
theorem filledPixels_sortByY_swap_first (a b c : Pixel) :
    filledPixels (sortByY a b c) = filledPixels (sortByY b a c) := by
  wlog hab : a.2 ≤ b.2 generalizing a b
  · exact (this b a (le_of_not_ge hab)).symm
  rcases hab.lt_or_eq with hlt | heq
  · simp only [sortByY, orderByY_of_le hab, orderByY_of_lt hlt]
  · rcases le_or_gt b.2 c.2 with hbc | hcb
    · rw [sortByY_of_le hab hbc, sortByY_of_le heq.ge (heq.trans_le hbc), filledPixels_swap_upper heq hbc]
    · have hca : c.2 < a.2 := heq ▸ hcb
      simp only [sortByY, orderByY_of_le hab, orderByY_of_le heq.ge, orderByY_of_lt hcb, orderByY_of_lt hca]
      exact filledPixels_swap_lower hca.le heq

/-- Exchanging the last two vertices changes the outcome of the sort only if they lie on one scanline. -/
theorem filledPixels_sortByY_swap_last (a b c : Pixel) :
    filledPixels (sortByY a b c) = filledPixels (sortByY a c b) := by
  wlog hbc : b.2 ≤ c.2 generalizing b c
  · exact (this c b (le_of_not_ge hbc)).symm
  rcases le_or_gt a.2 b.2 with hab | hba
  · have hac := hab.trans hbc
    rw [sortByY_of_le hab hbc]
    rcases hbc.lt_or_eq with hlt | heq
    · simp only [sortByY, orderByY_of_le hac, orderByY_of_lt hlt, orderByY_of_le hab]
    · rw [sortByY_of_le hac heq.ge, filledPixels_swap_lower hab heq]
  rcases le_or_gt a.2 c.2 with hac | hca
  · simp only [sortByY, orderByY_of_lt hba, orderByY_of_le hac, orderByY_of_lt (hba.trans_le hac), orderByY_of_le hba.le]
  · simp only [sortByY, orderByY_of_lt hba, orderByY_of_lt hca, orderByY_of_le hbc]
    rcases hbc.lt_or_eq with hlt | heq
    · simp only [orderByY_of_lt hlt]
    · simp only [orderByY_of_le heq.ge]
      exact filledPixels_swap_upper heq hca.le

/-! ### Statements on circles and triangles -/

/-- Settles O20. -/
theorem drawCircleLightsTheOctantPoints : Obligations.DrawCircleLightsTheOctantPoints :=
  fun _ _ _ s => ⟨rfl, lights_of_plots (fun _ => rfl) (fun _ _ _ => mem_circlePoints) s⟩

/-- Settles O21: each reflection keeps the distances from the centre or exchanges them. -/
theorem circlePointsAreSymmetric : Obligations.CirclePointsAreSymmetric := by
  intro cx cy r px py h
  refine ⟨mem_circlePoints_of_distances h (.inl ⟨?_, rfl⟩), mem_circlePoints_of_distances h (.inl ⟨rfl, ?_⟩),
    mem_circlePoints_of_distances h (.inr ⟨?_, ?_⟩)⟩
  · rw [show 2 * cx - px - cx = -(px - cx) by ring, abs_neg]
  · rw [show 2 * cy - py - cy = -(py - cy) by ring, abs_neg]
  · rw [add_sub_cancel_left]
  · rw [add_sub_cancel_left]

/-- Settles O22: plotting the three traces joined is plotting them one after the other. -/
theorem drawTriangleIsThreeLines : Obligations.DrawTriangleIsThreeLines := by
  intro x0 y0 x1 y1 x2 y2 s
  refine ⟨rfl, next_of_exec_fb rfl ?_⟩
  rw [trianglePoints, plotAll_append, plotAll_append]
  simp only [execAll, exec_drawLine]

/-- Settles O23: vertices in ascending y are left as they are by the sort. -/
theorem fillTriangleFillsTheClosedForm : Obligations.FillTriangleFillsTheClosedForm := by
  intro x0 y0 x1 y1 x2 y2 s h01 h12
  have h01' : coord y0 ≤ coord y1 := Int.ofNat_le.2 h01
  have h12' : coord y1 ≤ coord y2 := Int.ofNat_le.2 h12
  refine ⟨rfl, lights_of_plots (fun _ => rfl) (fun px py hb => ?_) s⟩
  rw [mem_fillTrianglePoints, sortByY_of_le h01' h12', filledPixels, Set.mem_ofPred_eq,
    mem_sortedTrianglePoints h01' h12', and_iff_right hb]
  simp only [coord_inj]
  rfl

/-- Settles O24: both exchanges leave the set of points filled as it is. -/
theorem fillTriangleIgnoresVertexOrder : Obligations.FillTriangleIgnoresVertexOrder := by
  intro x0 y0 x1 y1 x2 y2 s
  refine ⟨_, _, _, rfl, rfl, rfl, sameBytes_plotAll _ fun p => ?_, sameBytes_plotAll _ fun p => ?_⟩
  · rw [mem_fillTrianglePoints, mem_fillTrianglePoints, filledPixels_sortByY_swap_first]
  · rw [mem_fillTrianglePoints, mem_fillTrianglePoints, filledPixels_sortByY_swap_last]

end Sys2Proof.Machine
end

section
/-! The proofs of the statements on text (42_text.md R111 to R114). First what blank columns and a stored glyph leave at
each place of the PixelBuffer, which gives a character, and a string by induction on it; then the decimal text of a
number, which is the library's list of digits turned round. Then the statements. -/

namespace Sys2Proof.Machine

/-! ### Glyphs (R111) -/

theorem getElem?_map_finRange {n j : Nat} (column : Fin n → Byte) (h : j < n) :
    ((List.finRange n).map column)[j]? = some (column ⟨j, h⟩) := by
  simp [h]

theorem glyph_compact_of_table {c : Byte} {k : Fin 95} (h : c.toNat = 32 + k.val) :
    glyph .compact c = (List.finRange 3).map (Config.compactGlyph k) := by
  have hindex : c.toNat - 32 = k.val := by omega
  rw [glyph, dif_pos (by omega)]
  simp only [hindex]

theorem glyph_compact_of_fallback {c : Byte} (h : c.toNat < 32 ∨ 126 < c.toNat) :
    glyph .compact c = (List.finRange 3).map Config.compactFallback := by
  rw [glyph, dif_neg (by omega)]

/-- A column beyond the glyph's width reads as a blank one. -/
theorem glyph_getD_eq_zero {f : Font} {j : Nat} (c : Byte) (h : glyphWidth f ≤ j) : ((glyph f c)[j]?).getD 0 = 0 := by
  rw [List.getElem?_eq_none (glyph_length f c ▸ h), Option.getD_none]

/-- A pitch is the glyph and one blank column (R111). -/
theorem pitch_eq (f : Font) : pitch f = glyphWidth f + 1 := by
  cases f <;> rfl

/-! ### Whole bytes stored into one page-row (R112) -/

/-- A place of the PixelBuffer has one address (R41). -/
theorem fbAddr_inj {p x p' x' : Nat} (hx : x < 132) (hx' : x' < 132) : fbAddr p x = fbAddr p' x' ↔ p = p' ∧ x = x' := by
  rw [fbAddr, fbAddr, Config.W_eq]
  omega

theorem readByte_writeByte_fbAddr (m : Memory) {page col p x : Nat} (b : Byte) (hcol : col < 132) (hp : p < 6)
    (hx : x < 132) :
    readByte (writeByte m (fbAddr page col) b) (fbAddr p x) =
      if p = page ∧ x = col then b else readByte m (fbAddr p x) := by
  have hplace : fbAddr p x = fbAddr page col ∧ fbAddr page col < Config.FB_BYTES ↔ p = page ∧ x = col := by
    rw [fbAddr_inj hx hcol]
    refine and_iff_left_of_imp ?_
    rintro ⟨rfl, rfl⟩
    exact fbAddr_lt hp hx
  rw [readByte_writeByte]
  exact if_congr hplace rfl rfl

/-- Bytes that fit into the row from `col` on stand there whole; every other place keeps its byte. -/
theorem readByte_writeBytes_fbAddr (m : Memory) {page col p x : Nat} {bs : List Byte} (hpage : page < 6)
    (hfit : col + bs.length ≤ 132) (hx : x < 132) :
    readByte (writeBytes m (fbAddr page col) bs) (fbAddr p x) =
      if p = page ∧ col ≤ x ∧ x < col + bs.length then (bs[x - col]?).getD 0 else readByte m (fbAddr p x) := by
  rw [readByte_writeBytes _ _ _ (by rw [fbAddr, Config.W_eq, Config.FB_BYTES_eq]; omega), fbAddr, fbAddr, Config.W_eq]
  by_cases hin : p = page ∧ col ≤ x ∧ x < col + bs.length
  · obtain ⟨rfl, hle, hlt⟩ := hin
    rw [if_pos (by omega), if_pos ⟨rfl, hle, hlt⟩, Nat.add_sub_add_left, List.getElem?_eq_getElem (by omega),
      Option.getD_some, Option.getD_some]
  · rw [if_neg hin]
    by_cases hle : page * 132 + col ≤ p * 132 + x
    · rw [if_pos hle, List.getElem?_eq_none (by omega), Option.getD_none]
    · rw [if_neg hle]

theorem blankColumns_succ (page col n : Nat) (m : Memory) :
    blankColumns page col (n + 1) m =
      if col + n < 132 then writeByte (blankColumns page col n m) (fbAddr page (col + n)) 0
      else blankColumns page col n m := by
  rw [blankColumns, List.range_succ, List.foldl_append]
  rfl

/-- Blank columns hold `0x00` where they lie inside the row; every other place keeps its byte. -/
theorem readByte_blankColumns (m : Memory) (page col n : Nat) {p x : Nat} (hp : p < 6) (hx : x < 132) :
    readByte (blankColumns page col n m) (fbAddr p x) =
      if p = page ∧ col ≤ x ∧ x < col + n then 0 else readByte m (fbAddr p x) := by
  induction n with
  | zero => exact (if_neg (by omega)).symm
  | succ n ih =>
    rw [blankColumns_succ]
    by_cases hin : col + n < 132
    · rw [if_pos hin, readByte_writeByte_fbAddr _ _ hin hp hx, ih, ← ite_or]
      exact if_congr (by omega) rfl rfl
    · rw [if_neg hin, ih]
      exact if_congr (by omega) rfl rfl

/-! ### Characters and strings (R112, R113) -/

/-- A page beyond the last draws nothing. -/
theorem drawCharFb_of_le_page (m : Memory) {page : Nat} (h : 6 ≤ page) (col : Nat) (c : Byte) (f : Font) (spacing : Nat) :
    drawCharFb m page col c f spacing = m :=
  if_pos h

theorem drawCharFb_of_page_lt (m : Memory) {page : Nat} (h : page < 6) (col : Nat) (c : Byte) (f : Font)
    (spacing : Nat) :
    drawCharFb m page col c f spacing = blankColumns page (col + glyphWidth f) spacing
      (if col + glyphWidth f ≤ 132 then writeBytes m (fbAddr page col) (glyph f c) else m) :=
  if_neg (not_le.2 h)

/-- A character that fits stores its glyph and the blank columns after it as one block: a blank column is a column beyond the
glyph's width. Where the glyph does not fit, its blank columns lie outside too. -/
theorem readByte_drawCharFb (m : Memory) (page col : Nat) (c : Byte) (f : Font) (spacing : Nat) {p x : Nat} (hp : p < 6)
    (hx : x < 132) :
    readByte (drawCharFb m page col c f spacing) (fbAddr p x) =
      if p = page ∧ col ≤ x ∧ x < col + glyphWidth f + spacing ∧ col + glyphWidth f ≤ 132 then
        ((glyph f c)[x - col]?).getD 0
      else readByte m (fbAddr p x) := by
  rcases le_or_gt 6 page with hpage | hpage
  · rw [drawCharFb_of_le_page m hpage, if_neg (by omega)]
  rw [drawCharFb_of_page_lt m hpage, readByte_blankColumns _ _ _ _ hp hx]
  by_cases hblank : p = page ∧ col + glyphWidth f ≤ x ∧ x < col + glyphWidth f + spacing
  · rw [if_pos hblank, if_pos (by omega), glyph_getD_eq_zero c (by omega)]
  rw [if_neg hblank]
  by_cases hfit : col + glyphWidth f ≤ 132
  · rw [if_pos hfit, readByte_writeBytes_fbAddr m hpage (by rwa [glyph_length]) hx, glyph_length]
    exact if_congr (by omega) rfl rfl
  · rw [if_neg hfit, if_neg (by omega)]

/-- A string, by induction on it: the first character owns one pitch of columns, and what follows it is the string of the
others, one pitch further on. -/
theorem readByte_drawTextFb (m : Memory) (page col : Nat) (f : Font) (text : List Byte) {p x : Nat} (hp : p < 6)
    (hx : x < 132) :
    readByte (drawTextFb page f m col text) (fbAddr p x) =
      if p = page ∧ col ≤ x ∧ (x - col) / pitch f < text.length ∧
          col + (x - col) / pitch f * pitch f + glyphWidth f ≤ 132 then
        ((glyph f ((text[(x - col) / pitch f]?).getD 0))[(x - col) % pitch f]?).getD 0
      else readByte m (fbAddr p x) := by
  have hpitch := pitch_eq f
  induction text generalizing m col with
  | nil => exact (if_neg (by simp)).symm
  | cons c cs ih =>
    rw [drawTextFb, Config.W_eq]
    by_cases hcol : col ≥ 132
    · rw [if_pos hcol, if_neg (by omega)]
    rw [if_neg hcol, ih, readByte_drawCharFb _ _ _ _ _ _ hp hx]
    rcases lt_or_ge x (col + pitch f) with hfirst | hrest
    · rw [if_neg (by omega)]
      have hdiv : (x - col) / pitch f = 0 := Nat.div_eq_of_lt (by omega)
      rw [hdiv, Nat.mod_eq_of_lt (by omega)]
      refine if_congr ?_ rfl rfl
      rw [List.length_cons]
      omega
    · have hdist : x - col = x - (col + pitch f) + pitch f := by omega
      have hchar : ¬(p = page ∧ col ≤ x ∧ x < col + glyphWidth f + (pitch f - glyphWidth f) ∧
          col + glyphWidth f ≤ 132) := by omega
      rw [if_neg hchar, hdist, Nat.add_div_right _ (by omega), Nat.add_mod_right, Nat.succ_mul, List.getElem?_cons_succ]
      refine if_congr ?_ rfl rfl
      rw [List.length_cons]
      omega

/-! ### Decimal text (R114) -/

theorem toNat_digitByte {k : Nat} (h : k < 10) : (digitByte k).toNat = 0x30 + k := by
  rw [digitByte, BitVec.toNat_ofNat, Nat.mod_eq_of_lt (by omega)]

theorem digitsFuel_eq_map {fuel m : Nat} (hfuel : m ≤ fuel) (hm : m ≠ 0) :
    digitsFuel fuel m = (Nat.digits 10 m).reverse.map digitByte := by
  induction fuel generalizing m with
  | zero => omega
  | succ fuel ih =>
    rw [digitsFuel]
    split_ifs with hlt
    · rw [Nat.digits_of_lt 10 m hm hlt]
      rfl
    · rw [ih (by omega) (by omega), Nat.digits_def' (by omega) (Nat.pos_of_ne_zero hm), List.reverse_cons, List.map_append]
      rfl

/-- `DIGITS(m)` is the library's list of decimal digits, turned round and written as bytes. -/
theorem digits_eq_map {m : Nat} (hm : m ≠ 0) : digits m = (Nat.digits 10 m).reverse.map digitByte :=
  digitsFuel_eq_map le_rfl hm

theorem valueOfDigits_reverse_map {ds : List Nat} (h : ∀ d ∈ ds, d < 10) :
    valueOfDigits (ds.reverse.map digitByte) = Nat.ofDigits 10 ds := by
  induction ds with
  | nil => rfl
  | cons d ds ih =>
    obtain ⟨hd, hds⟩ := List.forall_mem_cons.1 h
    have hlast : valueOfDigits ((d :: ds).reverse.map digitByte) =
        10 * valueOfDigits (ds.reverse.map digitByte) + ((digitByte d).toNat - 0x30) := by
      rw [List.reverse_cons, List.map_append, valueOfDigits, List.foldl_append]
      rfl
    rw [hlast, ih hds, toNat_digitByte hd, Nat.ofDigits_cons]
    omega

/-- What R114 asks of the digits of `m`: digit bytes that denote it, at least one, and no leading zero but in "0". -/
structure IsDecimal (m : Nat) (ds : List Byte) : Prop where
  value : valueOfDigits ds = m
  digit : ∀ b ∈ ds, 0x30 ≤ b.toNat ∧ b.toNat ≤ 0x39
  ne_nil : ds ≠ []
  leading : ds.head? = some 0x30 → ds = [0x30]

theorem isDecimal_digits_zero : IsDecimal 0 (digits 0) := by
  constructor <;> decide

theorem isDecimal_digits (m : Nat) : IsDecimal m (digits m) := by
  rcases eq_or_ne m 0 with rfl | hm
  · exact isDecimal_digits_zero
  have hdigit : ∀ d ∈ Nat.digits 10 m, d < 10 := fun d hd => Nat.digits_lt_base (by omega) hd
  have hne : Nat.digits 10 m ≠ [] := Nat.digits_ne_nil_iff_ne_zero.2 hm
  rw [digits_eq_map hm]
  refine ⟨?_, ?_, ?_, ?_⟩
  · rw [valueOfDigits_reverse_map hdigit, Nat.ofDigits_digits]
  · intro b hb
    obtain ⟨d, hd, rfl⟩ := List.mem_map.1 hb
    have hlt := hdigit d (List.mem_reverse.1 hd)
    rw [toNat_digitByte hlt]
    omega
  · simpa using hne
  · intro hhead
    rw [List.head?_map, List.head?_reverse, List.getLast?_eq_some_getLast hne, Option.map_some, Option.some_inj] at hhead
    have hbyte := congrArg BitVec.toNat hhead
    rw [toNat_digitByte (hdigit _ (List.getLast_mem hne))] at hbyte
    exact absurd (Nat.add_left_cancel hbyte) (Nat.getLast_digit_ne_zero 10 hm)

theorem length_digits_le {m : Nat} (h : m < 10 ^ 10) : (digits m).length ≤ 10 := by
  rcases eq_or_ne m 0 with rfl | hm
  · decide
  rw [digits_eq_map hm, List.length_map, List.length_reverse]
  exact (Nat.digits_length_le_iff (by omega) m).2 h

theorem dec_eq_append (v : Int) : dec v = (if v < 0 then [0x2D] else []) ++ digits v.natAbs := by
  rw [dec]
  split_ifs <;> rfl

/-- The absolute value of a 32-bit number has at most ten digits. -/
theorem length_dec_toInt_le (v : Word) : (dec v.toInt).length ≤ 11 := by
  have hlow := BitVec.le_toInt v
  have hhigh := BitVec.toInt_lt (x := v)
  have hdigits : (digits v.toInt.natAbs).length ≤ 10 := length_digits_le (by omega)
  rw [dec]
  split_ifs
  · exact Nat.succ_le_succ hdigits
  · exact hdigits.trans (by omega)

/-! ### Statements on text -/

/-- Settles O25. -/
theorem glyphLookupIsTotal : Obligations.GlyphLookupIsTotal := by
  refine ⟨fun c j h => ?_, fun c k j h hc => ?_, fun c j h hc => ?_, fun f c => ⟨glyph_length f c, ?_⟩⟩
  · exact getElem?_map_finRange _ h
  · rw [glyph_compact_of_table hc, getElem?_map_finRange _ h]
  · rw [glyph_compact_of_fallback hc, getElem?_map_finRange _ h]
  · cases f <;> rfl

/-- Settles O26: the block of a character, cut at the glyph's width. -/
theorem drawCharStoresTheGlyph : Obligations.DrawCharStoresTheGlyph := by
  intro page col char font spacing s
  refine ⟨rfl, next_of_exec_fb rfl ⟨fun hpage => ?_, fun p x hp hx => ?_⟩⟩
  · rw [drawCharFb_of_le_page s.fb hpage]
  rw [readByte_drawCharFb _ _ _ _ _ _ hp hx]
  by_cases hblank : p = page.toNat ∧ col.toNat + glyphWidth font ≤ x ∧ x < col.toNat + glyphWidth font + spacing.toNat
  · rw [if_pos (by omega), if_neg (by omega), if_pos hblank, glyph_getD_eq_zero char (by omega)]
  · rw [if_neg hblank]
    exact if_congr (by omega) rfl rfl

/-- Settles O27. -/
theorem drawTextStoresOneCellPerPitch : Obligations.DrawTextStoresOneCellPerPitch := fun _ _ _ _ _ =>
  ⟨rfl, next_of_exec_fb rfl fun _ _ hp hx => readByte_drawTextFb _ _ _ _ _ hp hx⟩

/-- Settles O28: the text is `DEC` of the value. -/
theorem drawNumberDrawsTheDecimal : Obligations.DrawNumberDrawsTheDecimal := by
  intro page col value font s
  obtain ⟨hvalue, hdigit, hne, hleading⟩ := isDecimal_digits value.toInt.natAbs
  exact ⟨rfl, digits value.toInt.natAbs, dec value.toInt, _, dec_eq_append _, hvalue, hdigit, hne, hleading,
    length_dec_toInt_le value, rfl, rfl, rfl⟩

end Sys2Proof.Machine
end

section
/-! The proof of the statement on the bitmap blit (43_bitmap.md R125). First how lit sets join when buffers follow one
another; then which pixels one source byte names, and that its shifted halves, ORed into two pages, name the same; then
the statement, by the fold over the operand's bytes. -/

namespace Sys2Proof.Machine

/-! ### Pictures drawn one after the other -/

theorem lights_refl (m : Memory) : Lights (fun _ _ => False) m m :=
  ⟨fun _ _ _ => (or_iff_left not_false).symm, fun _ _ => rfl⟩

/-- What is lit in two steps is what either lights. -/
theorem Lights.trans {P Q : Int → Int → Prop} {m m' m'' : Memory} (h : Lights P m m') (h' : Lights Q m' m'') :
    Lights (fun x y => P x y ∨ Q x y) m m'' := by
  refine ⟨fun x y hb => ?_, fun a ha => ?_⟩
  · rw [h'.1 x y hb, h.1 x y hb, or_assoc]
  · exact (h'.2 a fun x y hb hq => ha x y hb (.inr hq)).trans (h.2 a fun x y hb hp => ha x y hb (.inl hp))

/-- A fold of steps that each light a set of their own lights the union of these sets. -/
theorem lights_foldl {α : Type} {f : Memory → α → Memory} {P : α → Int → Int → Prop}
    (hf : ∀ m e, Lights (P e) m (f m e)) (es : List α) (m : Memory) :
    Lights (fun x y => ∃ e ∈ es, P e x y) m (es.foldl f m) := by
  induction es generalizing m with
  | nil => exact (lights_refl m).congr fun x y _ => by simp only [List.not_mem_nil, false_and, exists_false]
  | cons e es ih => exact ((hf m e).trans (ih (f m e))).congr fun x y _ => by simp only [List.exists_mem_cons_iff]

/-! ### The pixels of one byte (R42, R46) -/

/-- The pixels that the set bits of `v` name in column `x`, bit 0 at row `y` and bit 7 lowest (R46). -/
def ColumnPixels (v : Byte) (x y : Nat) (px py : Int) : Prop :=
  ∃ b < 8, v.getLsbD b = true ∧ px = x ∧ py = (y + b : Nat)

/-- A byte that stands on a page names the rows of that page by their bit numbers (R42). -/
theorem columnPixels_page_iff {v : Byte} {x p : Nat} {px py : Int} :
    ColumnPixels v x (8 * p) px py ↔ px = x ∧ py / 8 = p ∧ v.getLsbD (pixelBit py) = true := by
  unfold pixelBit
  constructor
  · rintro ⟨b, hb, hv, hx, hy⟩
    have hbit : (py % 8).toNat = b := by omega
    exact ⟨hx, by omega, by rwa [hbit]⟩
  · rintro ⟨hx, hp, hv⟩
    exact ⟨(py % 8).toNat, by omega, hv, hx, by omega⟩

/-- A byte with its low end `r` rows down a page is one byte on that page and one on the next, which hold its low bits
shifted up and its high bits shifted down (R125). -/
theorem columnPixels_split {v : Byte} {x q r : Nat} {px py : Int} (hr : r < 8) :
    ColumnPixels v x (8 * q + r) px py ↔
      ColumnPixels (v <<< r) x (8 * q) px py ∨ ColumnPixels (v >>> (8 - r)) x (8 * (q + 1)) px py := by
  simp only [ColumnPixels, BitVec.getLsbD_shiftLeft, BitVec.getLsbD_ushiftRight]
  constructor
  · rintro ⟨b, hb, hv, hx, hy⟩
    by_cases hpage : b + r < 8
    · exact .inl ⟨b + r, hpage, by simpa [hpage] using hv, hx, by omega⟩
    · have hsource : 8 - r + (b + r - 8) = b := by omega
      exact .inr ⟨b + r - 8, by omega, by rwa [hsource], hx, by omega⟩
  · rintro (⟨b, hb, hv, hx, hy⟩ | ⟨b, hb, hv, hx, hy⟩)
    · simp only [Bool.and_eq_true, decide_eq_true_eq, Bool.not_eq_true', decide_eq_false_iff_not] at hv
      obtain ⟨⟨-, hrb⟩, hv⟩ := hv
      exact ⟨b - r, by omega, hv, hx, by omega⟩
    · exact ⟨8 - r + b, BitVec.lt_of_getLsbD hv, hv, hx, by omega⟩

/-! ### Bytes ORed in (R125) -/

theorem pixelAddr_eq_fbAddr_iff {px py : Int} (h : InBuffer px py) {p x : Nat} (hx : x < 132) :
    pixelAddr px py = fbAddr p x ↔ px = x ∧ py / 8 = p := by
  simp only [InBuffer, Config.W_eq, Config.H_eq] at h
  rw [pixelAddr, fbAddr_inj (by omega) hx]
  omega

/-- A byte ORed into a place of the buffer lights the pixels it names; a byte without a set bit is ORed in without
effect. -/
theorem lights_orByte (m : Memory) (p : Nat) {x : Nat} (v : Byte) (hx : x < 132) :
    Lights (ColumnPixels v x (8 * p)) m (orByte m p x v) := by
  refine ⟨fun px py hb => ?_, fun a ha => ?_⟩
  · rw [columnPixels_page_iff, readPixel_of_inBuffer _ hb, readPixel_of_inBuffer _ hb, readByte_orByte m v hx]
    have haddr := pixelAddr_eq_fbAddr_iff (p := p) hb hx
    have hpage : py / 8 = p → p < Config.PAGES := by
      simp only [InBuffer, Config.H_eq, Config.PAGES_eq] at hb ⊢
      omega
    by_cases hplace : px = x ∧ py / 8 = p
    · rw [if_pos ⟨hpage hplace.2, haddr.2 hplace⟩, BitVec.getLsbD_or, Bool.or_eq_true, and_iff_right hplace.1,
        and_iff_right hplace.2]
    · rw [if_neg fun h => hplace (haddr.1 h.2), ← and_assoc, or_iff_left fun h => hplace h.1]
  · rw [readByte_orByte m v hx]
    by_cases hplace : p < Config.PAGES ∧ a = fbAddr p x
    swap
    · rw [if_neg hplace]
    obtain ⟨hp, rfl⟩ := hplace
    have hv : v = 0#8 := BitVec.eq_of_getLsbD_eq fun b hb => by
      rw [BitVec.getLsbD_zero, Bool.eq_false_iff]
      intro hset
      have hin : InBuffer (x : Int) (8 * p + b : Nat) := by
        simp only [InBuffer, Config.W_eq, Config.H_eq, Config.PAGES_eq] at hp ⊢
        omega
      exact ha x (8 * p + b : Nat) hin ⟨b, hb, hset, rfl, rfl⟩
        ((pixelAddr_eq_fbAddr_iff hin hx).2 ⟨rfl, by omega⟩).symm
    rw [if_pos ⟨hp, rfl⟩, hv, BitVec.or_zero]

/-- One source byte lights the pixels of its set bits from row `y + 8·sp` on, by whether its column is in the buffer and
whether its rows are those of one page. -/
theorem lights_orSourceByte (m : Memory) (y sp dx : Nat) (v : Byte) :
    Lights (ColumnPixels v dx (y + sp * 8)) m (orSourceByte m y sp dx v) := by
  unfold orSourceByte
  rw [Config.W_eq]
  by_cases hcol : dx ≥ 132
  · rw [if_pos hcol]
    refine (lights_refl m).congr fun px py hb => ⟨False.elim, ?_⟩
    rintro ⟨b, -, -, hx, -⟩
    simp only [InBuffer, Config.W_eq] at hb
    omega
  rw [if_neg hcol]
  by_cases halign : y % 8 = 0
  · rw [if_pos halign, show y + sp * 8 = 8 * (y / 8 + sp) by omega]
    exact lights_orByte m _ v (by omega)
  · rw [if_neg halign, show y + sp * 8 = 8 * (y / 8 + sp) + y % 8 by omega]
    exact ((lights_orByte m _ _ (by omega)).trans (lights_orByte _ _ _ (by omega))).congr fun _ _ _ =>
      (columnPixels_split (Nat.mod_lt y (by omega))).symm

/-! ### The blit -/

theorem mem_bitmapIndices {pages w sp i : Nat} : (sp, i) ∈ bitmapIndices pages w ↔ sp < pages ∧ i < w := by
  simp [bitmapIndices]

/-- The blit lights what the bytes of its operand name; a byte that the operand lacks names nothing. -/
theorem lights_drawBitmapFb (m : Memory) (x y : Nat) (bitmap : List Byte) (w pages : Nat) :
    Lights (fun px py => ∃ q ∈ bitmapIndices pages w, ∃ v, bitmap[q.1 * w + q.2]? = some v ∧
      ColumnPixels v (x + q.2) (y + q.1 * 8) px py) m (drawBitmapFb m x y bitmap w pages) := by
  refine lights_foldl (fun m q => ?_) _ m
  cases bitmap[q.1 * w + q.2]? with
  | none => exact (lights_refl m).congr fun px py _ => by simp only [reduceCtorEq, false_and, exists_false]
  | some v =>
    exact (lights_orSourceByte m y q.1 (x + q.2) v).congr fun px py _ => by
      simp only [Option.some.injEq, exists_eq_left']

/-- Settles O29: the pixels of the operand's bytes are those of its set source bits. -/
theorem drawBitmapLightsTheSourcePixels : Obligations.DrawBitmapLightsTheSourcePixels := by
  intro x y bitmap w h s _
  refine ⟨rfl, next_of_exec_fb rfl ((lights_drawBitmapFb s.fb _ _ bitmap _ _).congr fun px py _ => ?_)⟩
  constructor
  · rintro ⟨⟨sp, i⟩, hmem, v, hbyte, b, hb, hset, hx, hy⟩
    obtain ⟨hsp, hi⟩ := mem_bitmapIndices.1 hmem
    exact ⟨sp, i, b, v, hsp, hi, hb, hbyte, hset, hx, hy⟩
  · rintro ⟨sp, i, b, v, hsp, hi, hb, hbyte, hset, hx, hy⟩
    exact ⟨(sp, i), mem_bitmapIndices.2 ⟨hsp, hi⟩, v, hbyte, b, hb, hset, hx, hy⟩

end Sys2Proof.Machine
end

section
/-! The proofs of the statements on how the game grows: LEN and TICK_MS follow SCORE, and the body stays connected. Both
speak of the snake, SCORE and TICK_MS alone, so what a step can do to these three registers is said once, as the three
closure conditions of `GrowthInvariant`; that every step keeps such a property is then proved once. -/

namespace Sys2Proof.Machine

/-! ### Properties of the snake, SCORE and TICK_MS -/

/-- What is to be shown of a property of the snake, SCORE and TICK_MS, for every step to keep it: a new game has it
(R132), a move keeps it (R143), and eating keeps it, for which SCORE is below 65535 (R145, U7). -/
structure GrowthInvariant (P : Snake → Half → Half → Prop) : Prop where
  start : P startSnake 0 Config.tickBase
  move : ∀ {b : Snake} {score ms : Half} (d : Direction), P b score ms → P (moveBody b (newHead b.head d)) score ms
  eat : ∀ {b : Snake} {score ms : Half} (d : Direction), score ≠ 65535 → P b score ms →
    P (growBody Config.snakeCap b.last (moveBody b (newHead b.head d))) (score + 1) (fasterTick ms)

namespace GrowthInvariant

/-! Operation by operation, phase by phase, and then for a whole step: a poll can only restart, a tick moves or eats, and
nothing else touches the three registers. -/

variable {P : Snake → Half → Half → Prop} {s t : State}

theorem pollKey (hP : GrowthInvariant P) (k : Key) (h : P s.snake s.score s.tickMs) :
    P (pollKey k s).snake (pollKey k s).score (pollKey k s).tickMs := by
  rcases pollKey_cases k s with ⟨_, _, he⟩ | ⟨g, he⟩ <;> rw [he]
  · exact hP.start
  · exact h

theorem tickState (hP : GrowthInvariant P) (ho : scoreOverflow s = false) (h : P s.snake s.score s.tickMs) :
    P (tickState s).snake (tickState s).score (tickState s).tickMs := by
  rcases tickState_cases s with ⟨_, he⟩ | ⟨_, _, he⟩ | ⟨_, _, _, he⟩ | ⟨hrun, hfree, hfood, he⟩ <;> rw [he]
  · exact h
  · exact h
  · exact hP.move _ h
  · have hscore : s.score ≠ 65535 := fun hs =>
      Bool.eq_false_iff.1 ho ((scoreOverflow_iff s).2 ⟨hs, hrun, hfree, hfood⟩)
    exact hP.eat _ hscore h

theorem stepPhase (hP : GrowthInvariant P) (ht : stepPhase s = .next t) (h : P s.snake s.score s.tickMs) :
    P t.snake t.score t.tickMs := by
  rcases stepPhase_cases s with ⟨_, _, he⟩ | ⟨_, ho, he⟩ | ⟨_, he⟩ <;> rw [he] at ht <;> cases ht
  · exact hP.tickState ho h
  · exact h

theorem inputPhase (hP : GrowthInvariant P) (h : P s.snake s.score s.tickMs) :
    P (inputPhase s).snake (inputPhase s).score (inputPhase s).tickMs := by
  rw [inputPhase_eq]
  exact hP.pollKey _ h

theorem loopPhase (hP : GrowthInvariant P) (ht : loopPhase s = .next t) (h : P s.snake s.score s.tickMs) :
    P t.snake t.score t.tickMs := by
  unfold Machine.loopPhase at ht
  split at ht
  · cases ht
    exact hP.inputPhase h
  · exact hP.stepPhase ht h
  · cases ht
    exact h
  · cases ht
    exact h

theorem loopPass (hP : GrowthInvariant P) (ht : loopPass s = .next t) (h : P s.snake s.score s.tickMs) :
    P t.snake t.score t.tickMs := by
  unfold Machine.loopPass at ht
  split at ht <;> cases ht
  rename_i u hu
  exact hP.stepPhase (t := u) hu (hP.inputPhase h)

theorem exec (hP : GrowthInvariant P) {i : Instr} (ht : exec i s = .next t) (h : P s.snake s.score s.tickMs) :
    P t.snake t.score t.tickMs := by
  cases opKind i with
  | draws f _ hf =>
    obtain rfl := hf.next_eq ht
    exact h
  | getPixel x y =>
    rw [exec_getPixel] at ht
    cases ht
    simpa using h
  | gameReset =>
    cases ht
    exact hP.start
  | pollInput key =>
    cases ht
    exact hP.pollKey _ h
  | tick =>
    obtain ⟨ho, rfl⟩ := exec_tick_next_iff.1 ht
    exact hP.tickState ho h
  | loopIteration => exact hP.loopPass ht h
  | placeFood | render | flush =>
    cases ht
    exact h

/-- Every step keeps the property. -/
theorem step (hP : GrowthInvariant P) (ht : step s = .next t) (h : P s.snake s.score s.tickMs) :
    P t.snake t.score t.tickMs := by
  rcases step_cases ht with ⟨_, hp⟩ | ⟨i, rest, _, he⟩
  · exact hP.loopPhase hp h
  · exact hP.exec he h

end GrowthInvariant

/-! ### The two properties -/

/-- LEN after eating: one more below the capacity (R145 (a)). -/
theorem growBody_moveBody_len (cap : Nat) (b : Snake) (h : Point) :
    (growBody cap b.last (moveBody b h)).len = if b.len < cap then b.len + 1 else b.len := by
  rw [growBody_moveBody]
  split_ifs
  · rfl
  · exact moveBody_len b h

/-- SCORE counts one food more, without a carry out of its 16 bits (R19). -/
theorem score_succ_toNat {score : Half} (h : score ≠ 65535) : (score + 1).toNat = score.toNat + 1 := by
  bv_omega

/-- The saturation of LEN at the capacity and of TICK_MS at its floor both commute with one food more. -/
theorem scoreTracks_growthInvariant : GrowthInvariant fun b score ms =>
    b.len = min (3 + score.toNat) Config.snakeCap ∧
      ms.toNat = max (Config.tickBase.toNat - Config.TICK_STEP * score.toNat) Config.TICK_FLOOR where
  start := ⟨(min_eq_left (b := Config.snakeCap) Config.three_le_snakeCap).symm,
    (max_eq_left (a := Config.tickBase.toNat) Config.tickFloor_le_tickBase).symm⟩
  move := by
    rintro b score ms d ⟨hlen, htick⟩
    exact ⟨(moveBody_len _ _).trans hlen, htick⟩
  eat := by
    rintro b score ms d hscore ⟨hlen, htick⟩
    rw [growBody_moveBody_len, fasterTick_toNat, score_succ_toNat hscore, hlen, htick, Config.TICK_STEP_eq]
    constructor
    · split_ifs <;> omega
    · omega

/-- A head put before a connected body, one step on from its head, leaves it connected. -/
theorem bodyConnected_newHead {b : Snake} (hb : BodyConnected b) (d : Direction) :
    BodyConnected ⟨newHead b.head d, b.cells⟩ :=
  List.isChain_cons_cons.2 ⟨⟨d, rfl⟩, hb⟩

/-- A move is the new head put before the body, without the last segment (R143). -/
theorem bodyConnected_moveBody {b : Snake} (hb : BodyConnected b) (d : Direction) :
    BodyConnected (moveBody b (newHead b.head d)) :=
  (bodyConnected_newHead hb d).dropLast

theorem bodyConnected_growthInvariant : GrowthInvariant fun b _ _ => BodyConnected b where
  start := startSnake_connected
  move d hb := bodyConnected_moveBody hb d
  eat := by
    intro b _ _ d _ hb
    rw [growBody_moveBody]
    split_ifs
    · exact bodyConnected_newHead hb d
    · exact bodyConnected_moveBody hb d

/-- Settles O57, by what the game operations do to LEN, SCORE and TICK_MS. -/
theorem everyStepKeepsLenAndTickInStepWithScore : Obligations.EveryStepKeepsLenAndTickInStepWithScore := by
  rintro s t ⟨hlen, htick⟩ ht
  obtain ⟨hlen', htick'⟩ := scoreTracks_growthInvariant.step ht ⟨hlen, htick⟩
  exact ⟨hlen', htick'⟩

/-- Settles O58, by what the game operations do to the body. -/
theorem everyStepKeepsTheBodyConnected : Obligations.EveryStepKeepsTheBodyConnected :=
  fun _ _ hb ht => bodyConnected_growthInvariant.step ht hb

end Sys2Proof.Machine
end

section
/-! The proofs of the statements on a new game and its food (44_game.md R132, R133). The scan of the grid is a search along
one row of numbers, cell `n` in column `n % 33` of row `n / 33`; so its first hit is the least free number. -/

namespace Sys2Proof.Machine

/-! ### The scan in row-major order (R133, D34) -/

/-- A table read row by row is one list, its entry `n` in column `n % w` of row `n / w`. -/
theorem flatMap_rows_eq_map_range {α : Type} (f : Nat → Nat → α) {w : Nat} (hw : 0 < w) (h : Nat) :
    ((List.range h).flatMap fun y => (List.range w).map fun x => f x y) =
      (List.range (h * w)).map fun n => f (n % w) (n / w) := by
  induction h with
  | zero => simp
  | succ h ih =>
    have hrow : ∀ x ∈ List.range w, f x h = f ((h * w + x) % w) ((h * w + x) / w) := by
      intro x hx
      have hlt := List.mem_range.1 hx
      rw [Nat.mul_add_mod_of_lt hlt, Nat.mul_comm h w, Nat.mul_add_div hw, Nat.div_eq_of_lt hlt, Nat.add_zero]
    rw [List.range_succ, List.flatMap_append, ih, Nat.succ_mul, List.range_add, List.map_append, List.map_map]
    simpa using hrow

theorem gridCells_eq_map_range : gridCells = (List.range 330).map fun n => pointOf (n % 33) (n / 33) :=
  flatMap_rows_eq_map_range pointOf (by decide) 10

/-- The scan finds a cell where it is free and every cell before it in row-major order is a segment. -/
theorem firstFree_eq_pointOf {body : List Point} {x y : Nat} (hx : x < 33) (hy : y < 10) (hfree : pointOf x y ∉ body)
    (hbefore : ∀ x' y', x' < 33 → y' < 10 → (y' < y ∨ (y' = y ∧ x' < x)) → pointOf x' y' ∈ body) :
    firstFree body = some (pointOf x y) := by
  have hcol : (33 * y + x) % 33 = x := by omega
  have hrow : (33 * y + x) / 33 = y := by omega
  have hfind : (List.range 330).find? ((fun c => !occ body c) ∘ fun n => pointOf (n % 33) (n / 33)) =
      some (33 * y + x) := by
    refine List.find?_range_eq_some.2 ⟨?_, List.mem_range.2 (by omega), fun n hn => ?_⟩
    · simpa [occ, hcol, hrow] using hfree
    · simpa [occ] using hbefore (n % 33) (n / 33) (by omega) (by omega) (by omega)
  rw [firstFree, gridCells_eq_map_range, List.find?_map, hfind, Option.map_some, hcol, hrow]

/-! ### Food placement (R133) -/

/-- The first free draw among the hundred is the food, and no cell is drawn after it. -/
theorem chooseFood_of_draw {body : List Point} {p : Port Config.GridCell} {k : Nat} (hk : k < 100)
    (hocc : ∀ j < k, pointOfCell (p.answer Config.rndCell j) ∈ body)
    (hfree : pointOfCell (p.answer Config.rndCell k) ∉ body) :
    chooseFood body p = (pointOfCell (p.answer Config.rndCell k), p.after (k + 1)) := by
  rcases chooseFood_cases body p with ⟨k', _, hocc', hfree', he⟩ | ⟨hall, _⟩
  · rcases lt_trichotomy k k' with hlt | rfl | hlt
    · exact absurd (hocc' k hlt) hfree
    · exact he
    · exact absurd (hocc k' hlt) hfree'
  · exact absurd (hall k hk) hfree

/-- After a hundred occupied draws the scan decides, and a free value where it finds nothing. -/
theorem chooseFood_of_no_draw {body : List Point} {p : Port Config.GridCell}
    (hall : ∀ j < 100, pointOfCell (p.answer Config.rndCell j) ∈ body) :
    (chooseFood body p).2 = p.after 100 ∧ ∀ c, firstFree body = some c → (chooseFood body p).1 = c := by
  rcases chooseFood_cases body p with ⟨k, hk, _, hfree, _⟩ | ⟨_, ⟨c', hc', he⟩ | ⟨hnone, he⟩⟩
  · exact absurd (hall k hk) hfree
  · rw [he, hc']
    exact ⟨rfl, fun c hc => Option.some.inj hc⟩
  · rw [he, hnone]
    exact ⟨rfl, fun c hc => nomatch hc⟩

theorem exec_placeFood (s : State) : exec .placeFood s = .next (placeFood s) := rfl

/-! ### Statements on a new game and its food -/

/-- Settles O32, by what the draws and the scan come to. -/
theorem placeFoodDrawsThenScans : Obligations.PlaceFoodDrawsThenScans := by
  intro s
  refine ⟨rfl, rfl, _, exec_placeFood s, rfl, fun k hk hocc hfree => ?_, fun hall => ?_⟩
  · rw [placeFood_food, placeFood_rndPort, chooseFood_of_draw hk hocc hfree]
    exact ⟨rfl, rfl⟩
  · obtain ⟨hport, hscan⟩ := chooseFood_of_no_draw hall
    refine ⟨hport, chooseFood_inGrid _ _, fun x y hx hy hfree hbefore => ?_⟩
    exact hscan _ (firstFree_eq_pointOf hx hy hfree hbefore)

/-- Settles O33: the food is a grid cell and no segment, so it is the only free cell where there is one. -/
theorem placeFoodFindsAFreeCell : Obligations.PlaceFoodFindsAFreeCell := by
  intro s c hc hfree
  have hgrid : InGrid (placeFood s).food := chooseFood_inGrid _ _
  have hfood : (placeFood s).food ∉ s.snake.cells := chooseFood_free _ hc hfree
  refine ⟨_, exec_placeFood s, hgrid, hfood, fun honly => ?_⟩
  by_contra hne
  exact hfood (honly _ hgrid hne)

/-- Settles O31: a game reset is `placeFood` on the registers of a new game. -/
theorem gameResetSetsUpANewGame : Obligations.GameResetSetsUpANewGame :=
  fun _ => ⟨_, _, rfl, exec_placeFood _, rfl⟩

end Sys2Proof.Machine
end

section
/-! The proofs of the statements on polling a key and on STATE (44_game.md R134 to R139, R146): first what a key code stands
for, then what polling does key by key. -/

namespace Sys2Proof.Machine

/-! ### Key codes (R24, R25, R66) -/

theorem direction?_of_arrow {key : Byte} {d : Direction}
    (h : (key, d) ∈ [((1 : Byte), Direction.up), (2, .down), (3, .left), (4, .right)]) :
    (keyOfCode key).direction? = some d := by
  simp only [List.mem_cons, List.not_mem_nil, or_false, Prod.mk.injEq] at h
  rcases h with ⟨rfl, rfl⟩ | ⟨rfl, rfl⟩ | ⟨rfl, rfl⟩ | ⟨rfl, rfl⟩ <;> rfl

/-- Codes 0 and 6 and above stand neither for an arrow nor for Ok. -/
theorem keyOfCode_of_no_effect {key : Byte} (h : key = 0 ∨ 6 ≤ key.toNat) :
    keyOfCode key = .none ∨ keyOfCode key = .other := by
  rcases h with rfl | h
  · exact .inl rfl
  · unfold keyOfCode
    split
    case h_7 => exact .inr rfl
    all_goals omega

/-! ### Polling, key by key (R135 to R139) -/

theorem okEdge_iff {held : Bool} {k : Key} : okEdge held k = true ↔ k = .ok ∧ held = false := by
  simp [okEdge, okHeldAfter]

/-- STATE after a poll: an OK edge pauses a Running game and starts any other; nothing else changes it (R146). -/
theorem pollKey_gameState (k : Key) (s : State) : (pollKey k s).gameState =
    if okEdge s.okHeld k = true then (if s.gameState = .running then .paused else .running) else s.gameState := by
  cases hg : s.gameState with
  | running => simp [pollKey, hg]
  | paused => simp [pollKey, hg]
  | gameOver =>
    by_cases he : okEdge s.okHeld k = true <;> simp [pollKey, hg, he]

/-- A key other than Ok clears OK_HELD and, in a Running game, may set INTENT. -/
theorem pollKey_of_ne_ok {k : Key} (hk : k ≠ .ok) (s : State) : pollKey k s = { s with
    intent := if s.gameState = .running then intentAfter k s.applied s.intent else s.intent
    okHeld := false } := by
  have hstate := pollKey_gameState k s
  rw [if_neg fun he => hk (key_of_okEdge he)] at hstate
  rcases pollKey_cases k s with ⟨_, hok, _⟩ | ⟨g, he⟩
  · exact absurd hok hk
  · rw [he] at hstate ⊢
    obtain rfl : g = s.gameState := hstate
    simp [okHeldAfter, hk]

/-- A key that is no arrow and not Ok clears OK_HELD. -/
theorem pollKey_of_no_effect {k : Key} (hk : k = .none ∨ k = .other) (s : State) :
    pollKey k s = { s with okHeld := false } := by
  rcases hk with rfl | rfl <;> rw [pollKey_of_ne_ok (by decide)] <;> simp [intentAfter, Key.direction?]

/-- An arrow clears OK_HELD and, while Running, becomes INTENT unless it is the reverse of APPLIED (R139). -/
theorem pollKey_arrow {k : Key} {d : Direction} (hk : k.direction? = some d) (s : State) : pollKey k s = { s with
    intent := if s.gameState = .running ∧ d ≠ s.applied.reverse then d else s.intent
    okHeld := false } := by
  have hne : k ≠ .ok := by
    rintro rfl
    cases hk
  rw [pollKey_of_ne_ok hne, intentAfter, hk, ite_and]
  simp only [ite_not]

/-- Ok while OK_HELD is set changes nothing (R135). -/
theorem pollKey_ok_held {s : State} (h : s.okHeld = true) : pollKey .ok s = s := by
  obtain ⟨_, g, _⟩ := s
  obtain rfl := h
  cases g <;> rfl

theorem pollKey_ok_running {s : State} (hg : s.gameState = .running) (h : s.okHeld = false) :
    pollKey .ok s = { s with gameState := .paused, okHeld := true } := by
  simp [pollKey, hg, okEdge_iff.2 ⟨rfl, h⟩, okHeldAfter, intentAfter, Key.direction?]

theorem pollKey_ok_paused {s : State} (hg : s.gameState = .paused) (h : s.okHeld = false) :
    pollKey .ok s = { s with gameState := .running, okHeld := true } := by
  simp [pollKey, hg, okEdge_iff.2 ⟨rfl, h⟩, okHeldAfter]

theorem pollKey_ok_gameOver {s : State} (hg : s.gameState = .gameOver) (h : s.okHeld = false) :
    pollKey .ok s = { gameReset s with okHeld := true } := by
  simp [pollKey, hg, okEdge_iff.2 ⟨rfl, h⟩, okHeldAfter, State.setOkHeld]

theorem exec_pollInput (key : Byte) (s : State) : exec (.pollInput key) s = .next (pollKey (keyOfCode key) s) := rfl

/-! ### Statements on polling and on STATE -/

/-- Settles O34, row by row. -/
theorem pollInputFollowsItsTable : Obligations.PollInputFollowsItsTable := by
  intro key s
  simp only [exec_pollInput]
  refine ⟨rfl, ?edge, ?held, ?arrow, ?other⟩
  case edge =>
    rintro rfl hheld
    refine ⟨fun hg => ?_, fun hg => ?_, fun hg => ⟨_, rfl, ?_⟩⟩
    · exact congrArg _ (pollKey_ok_running hg hheld)
    · exact congrArg _ (pollKey_ok_paused hg hheld)
    · exact congrArg _ (pollKey_ok_gameOver hg hheld)
  case held =>
    rintro rfl hheld
    exact congrArg _ (pollKey_ok_held hheld)
  case arrow => exact fun d hd => congrArg _ (pollKey_arrow (direction?_of_arrow hd) s)
  case other => exact fun hk => congrArg _ (pollKey_of_no_effect (keyOfCode_of_no_effect hk) s)

/-- A tick changes STATE only from Running to GameOver (R142). -/
theorem tickState_gameState_of_ne {s : State} (h : (tickState s).gameState ≠ s.gameState) :
    s.gameState = .running ∧ (tickState s).gameState = .gameOver := by
  rcases tickState_cases s with ⟨_, he⟩ | ⟨hg, _, he⟩ | ⟨_, _, _, he⟩ | ⟨_, _, _, he⟩ <;> rw [he] at h ⊢
  · exact absurd rfl h
  · exact ⟨hg, rfl⟩
  · exact absurd rfl h
  · exact absurd rfl h

/-- Settles O42, by the kinds of operations; only a tick, a poll and a reset write STATE. -/
theorem stateTransitionsFollowTheTable : Obligations.StateTransitionsFollowTheTable := by
  intro i s t hi h hne
  cases opKind i with
  | draws f _ hf =>
    obtain rfl := hf.next_eq h
    exact absurd rfl hne
  | getPixel x y =>
    rw [exec_getPixel] at h
    cases h
    simp at hne
  | gameReset =>
    cases h
    cases hg : s.gameState with
    | running => simp [hg] at hne
    | paused => simp
    | gameOver => simp
  | pollInput key =>
    cases h
    rw [pollKey_gameState] at hne ⊢
    by_cases hedge : okEdge s.okHeld (keyOfCode key) = true
    · obtain ⟨hok, hheld⟩ := okEdge_iff.1 hedge
      rw [if_pos hedge]
      obtain rfl := keyOfCode_eq_ok hok
      cases hg : s.gameState <;> simp [hheld]
    · exact absurd (if_neg hedge) hne
  | tick =>
    obtain ⟨-, rfl⟩ := exec_tick_next_iff.1 h
    obtain ⟨hrun, hover⟩ := tickState_gameState_of_ne hne
    exact .inl ⟨hrun, hover, rfl⟩
  | placeFood | render | flush =>
    cases h
    exact absurd rfl hne
  | loopIteration => exact absurd rfl hi

end Sys2Proof.Machine
end

section
/-! The proofs of the statements on the new head and the tick (44_game.md R140 to R147). The round trip of the straight snake
is an induction on the ticks run: one tick moves the snake that has gone `k` cells to the one that has gone `k + 1`. -/

namespace Sys2Proof.Machine

/-! ### The new head (R141) -/

theorem newHead_x_toNat (h : Point) (d : Direction) :
    ((newHead h d).x.toNat : Int) = ((h.x.toNat : Int) + d.dx) % 33 := by
  simp only [newHead, BitVec.toNat_ofInt, Config.COLS_eq]
  omega

theorem newHead_y_toNat (h : Point) (d : Direction) :
    ((newHead h d).y.toNat : Int) = ((h.y.toNat : Int) + d.dy) % 10 := by
  simp only [newHead, BitVec.toNat_ofInt, Config.ROWS_eq]
  omega

/-- A cell of the grid keeps its column where the direction does not point along the row: a step of one changes a column
modulo 33. -/
theorem newHead_x_eq_iff {h : Point} (hg : InGrid h) (d : Direction) : (newHead h d).x = h.x ↔ d.dx = 0 := by
  have hx := newHead_x_toNat h d
  have hcol : h.x.toNat < 33 := hg.1
  have hstep : d.dx = 0 ∨ d.dx = 1 ∨ d.dx = -1 := by cases d <;> decide
  rw [← BitVec.toNat_inj]
  omega

theorem newHead_y_eq_iff {h : Point} (hg : InGrid h) (d : Direction) : (newHead h d).y = h.y ↔ d.dy = 0 := by
  have hy := newHead_y_toNat h d
  have hrow : h.y.toNat < 10 := hg.2
  have hstep : d.dy = 0 ∨ d.dy = 1 ∨ d.dy = -1 := by cases d <;> decide
  rw [← BitVec.toNat_inj]
  omega

/-- Settles O36: a direction changes one axis, and each axis wraps by its own modulo. -/
theorem newHeadWrapsEachAxis : Obligations.NewHeadWrapsEachAxis := by
  refine ⟨fun h d => ⟨newHead_x_toNat h d, newHead_y_toNat h d⟩, fun h d hg => ?one,
    fun v => ⟨?right, rfl, ?down, rfl⟩⟩
  case one =>
    rw [newHead_x_eq_iff hg, Ne, newHead_y_eq_iff hg]
    cases d <;> decide
  case right => exact congrArg (Point.mk · _) (show BitVec.ofInt 8 (33 % 33) = 0 by decide)
  case down => exact congrArg (Point.mk _) (show BitVec.ofInt 8 (10 % 10) = 0 by decide)

/-! ### The tick (R140 to R145) -/

/-- Only an eating tick can be refused (U7). -/
theorem exec_tick_of_not_eating {s : State}
    (h : ¬ (s.gameState = .running ∧ tickHead s ∉ s.snake.cells ∧ tickHead s = s.food)) :
    exec .tick s = .next (tickState s) := by
  refine exec_tick_next_iff.2 ⟨Bool.eq_false_iff.2 fun ho => ?_, rfl⟩
  obtain ⟨_, heats⟩ := (scoreOverflow_iff s).1 ho
  exact h heats

/-- Settles O37: a game that is not Running does not eat. -/
theorem tickOutsideRunningDoesNothing : Obligations.TickOutsideRunningDoesNothing := by
  intro s hg
  rw [exec_tick_of_not_eating fun ⟨hrun, _, _⟩ => hg hrun, tickState_of_not_running hg]

/-- Settles O38: a tick that collides does not eat. -/
theorem tickCollisionEndsTheGame : Obligations.TickCollisionEndsTheGame := by
  rintro s _ hg rfl hocc
  have htick := exec_tick_of_not_eating (s := s) fun ⟨_, hfree, _⟩ => hfree hocc
  rwa [tickState_of_collision hg hocc] at htick

/-- Settles O39: a tick away from FOOD does not eat. -/
theorem tickMovesTheSnake : Obligations.TickMovesTheSnake := by
  rintro s _ hg rfl hfree hfood
  have htick := exec_tick_of_not_eating (s := s) fun ⟨_, _, heq⟩ => hfood heq
  rwa [tickState_of_move hg hfree hfood] at htick

/-- Settles O40: the body eaten for is the one the food is placed for. -/
theorem tickEatsTheFood : Obligations.TickEatsTheFood := by
  rintro s _ hg hscore rfl hfree hfood
  have hbody : growBody Config.snakeCap s.snake.last (moveBody s.snake (tickHead s)) =
      ⟨tickHead s, if s.snake.len < Config.snakeCap then s.snake.cells else s.snake.cells.dropLast⟩ := by
    rw [growBody_moveBody]
    split_ifs <;> rfl
  refine ⟨_, _, rfl, exec_placeFood _, ?_⟩
  rw [exec_tick_next_iff.2 ⟨scoreOverflow_of_score_ne hscore, rfl⟩, tickState_of_eat hg hfree hfood, eatFood, hbody]
  rfl

/-! ### A reversal is ignored (R147 (a)) -/

theorem tickState_applied {s : State} (hg : s.gameState = .running) :
    (tickState s).applied = appliedAfter s.applied s.intent := by
  rcases tickState_cases s with ⟨hn, _⟩ | ⟨_, _, he⟩ | ⟨_, _, _, he⟩ | ⟨_, _, _, he⟩
  · exact absurd hg hn
  all_goals exact congrArg State.applied he

/-- While the game still runs after a tick, its head is the one that the tick moved to (R143, R145). -/
theorem tickState_head {s : State} (h : (tickState s).gameState = .running) :
    (tickState s).snake.head = tickHead s := by
  rcases tickState_cases s with ⟨hn, he⟩ | ⟨_, _, he⟩ | ⟨_, _, _, he⟩ | ⟨_, _, _, he⟩ <;> rw [he] at h ⊢
  · exact absurd h hn
  · cases h
  · rfl
  · rw [eatFood_snake, growBody_moveBody]
    split_ifs <;> rfl

/-- Settles O43: the poll leaves INTENT, so the tick applies the prior direction. -/
theorem reversalIsIgnored : Obligations.ReversalIsIgnored := by
  rintro s key d hg hintent rfl harrow t u ht hu
  have hpoll : pollKey (keyOfCode key) s = { s with okHeld := false } := by
    rw [pollKey_arrow (direction?_of_arrow harrow)]
    simp
  rw [exec_pollInput, hpoll] at ht
  cases ht
  obtain ⟨-, rfl⟩ := exec_tick_next_iff.1 hu
  have hprior : appliedAfter s.applied s.intent = s.applied := by
    rw [appliedAfter_of_ne_reverse (hintent ▸ Direction.ne_reverse _), hintent]
  have happlied := tickState_applied (s := { s with okHeld := false }) hg
  exact ⟨happlied.trans hprior, fun hrun => (tickState_head hrun).trans (congrArg (newHead s.snake.head) hprior)⟩

/-! ### The straight snake goes round (R147 (b)) -/

/-- The straight three-cell snake on the middle row, moving right, `k` cells on from the middle of the grid. -/
def rowSnake (k : Nat) : Snake :=
  ⟨pointOf ((16 + k) % 33) 5, [pointOf ((15 + k) % 33) 5, pointOf ((14 + k) % 33) 5]⟩

theorem pointOf_mod_x_toNat (n y : Nat) : (pointOf (n % 33) y).x.toNat = n % 33 := by
  rw [pointOf, BitVec.toNat_ofNat]
  omega

theorem newHead_right_pointOf (n : Nat) : newHead (pointOf (n % 33) 5) .right = pointOf ((n + 1) % 33) 5 := by
  have hx := newHead_x_toNat (pointOf (n % 33) 5) .right
  have hdx : Direction.right.dx = 1 := rfl
  have hcol : (newHead (pointOf (n % 33) 5) .right).x = (pointOf ((n + 1) % 33) 5).x := by
    rw [pointOf_mod_x_toNat, hdx] at hx
    rw [← BitVec.toNat_inj, pointOf_mod_x_toNat]
    omega
  exact congrArg (Point.mk · _) hcol

/-- The next cell of the row is none of the three that the snake holds. -/
theorem next_not_mem_rowSnake (k : Nat) : pointOf ((17 + k) % 33) 5 ∉ (rowSnake k).cells := by
  have hne : ∀ j < 17, 14 ≤ j → pointOf ((17 + k) % 33) 5 ≠ pointOf ((j + k) % 33) 5 := by
    intro j hlt hle h
    have hcol := congrArg (fun p => p.x.toNat) h
    simp only [pointOf_mod_x_toNat] at hcol
    omega
  simp only [rowSnake, Snake.cells, List.mem_cons, List.not_mem_nil, or_false, not_or]
  exact ⟨hne 16 (by omega) (by omega), hne 15 (by omega) (by omega), hne 14 (by omega) (by omega)⟩

/-- The snake that has gone one cell on has the next cell in slot 0 and the two former front segments behind it. -/
theorem rowSnake_succ (k : Nat) : rowSnake (k + 1) = ⟨pointOf ((17 + k) % 33) 5, (rowSnake k).cells.dropLast⟩ := by
  rw [Nat.add_comm, rowSnake, ← Nat.add_assoc, ← Nat.add_assoc, ← Nat.add_assoc]
  rfl

/-- A Running game that goes right, with no food on the middle row. -/
structure GoesRight (s : State) : Prop where
  running : s.gameState = .running
  applied : s.applied = .right
  intent : s.intent = .right
  food : s.food.y ≠ 5

theorem exec_tick_rowSnake {s : State} (hs : GoesRight s) (k : Nat) :
    exec .tick { s with snake := rowSnake k } = .next { s with snake := rowSnake (k + 1) } := by
  obtain ⟨hrun, happlied, hintent, hrow⟩ := hs
  have hdir : Direction.right = if s.intent = s.applied.reverse then s.applied else s.intent := by
    rw [happlied, hintent]
    rfl
  have hhead : newHead (rowSnake k).head .right = pointOf ((17 + k) % 33) 5 := by
    rw [rowSnake, newHead_right_pointOf, Nat.add_right_comm]
  have hfood : pointOf ((17 + k) % 33) 5 ≠ s.food := fun h => hrow (h ▸ rfl)
  have hmove := tickMovesTheSnake { s with snake := rowSnake k } .right hrun hdir
    (hhead ▸ next_not_mem_rowSnake k) (hhead ▸ hfood)
  rw [hmove, hhead, ← happlied, rowSnake_succ]

theorem execAll_cons_of_next {i : Instr} {s t : State} (h : exec i s = .next t) (is : List Instr) :
    execAll (i :: is) s = execAll is t := by
  rw [execAll, h]

theorem execAll_ticks_rowSnake {s : State} (hs : GoesRight s) (n k : Nat) :
    execAll (List.replicate n .tick) { s with snake := rowSnake k } = .next { s with snake := rowSnake (k + n) } := by
  induction n generalizing k with
  | zero => rfl
  | succ n ih =>
    rw [List.replicate_succ, execAll_cons_of_next (exec_tick_rowSnake hs k), ih, Nat.add_right_comm, Nat.add_assoc]

/-- Settles O44: after 33 ticks the snake has gone 33 cells, once round the row. -/
theorem straightSnakeGoesRound : Obligations.StraightSnakeGoesRound := by
  intro s hrun happlied hintent hsnake hrow
  have hround := execAll_ticks_rowSnake ⟨hrun, happlied, hintent, hrow⟩ 33 0
  have hstart : rowSnake 0 = s.snake := hsnake.symm
  have hend : rowSnake (0 + 33) = s.snake := hsnake.symm
  rwa [hstart, hend] at hround

end Sys2Proof.Machine
end

section
/-! The proofs of the statements on `render` (44_game.md R150). Each operation of the expansion draws one part of the
picture, so the parts are shown to agree one by one and then put in sequence. -/

namespace Sys2Proof.Machine

/-! ### Sequences of drawing operations -/

theorem execAll_append_of_next {is : List Instr} {s t : State} (h : execAll is s = .next t) (js : List Instr) :
    execAll (is ++ js) s = execAll js t := by
  induction is generalizing s with
  | nil =>
    cases h
    rfl
  | cons i is ih =>
    rw [execAll] at h
    split at h
    · rename_i u hu
      rw [List.cons_append, execAll_cons_of_next hu, ih h]
    · cases h
    · cases h

/-- The operations `is`, run in order, change the PixelBuffer by `f` and nothing else, on every state. -/
def DrawsAll (is : List Instr) (f : Memory → Memory) : Prop :=
  ∀ s, execAll is s = .next { s with fb := f s.fb }

theorem drawsAll_nil : DrawsAll [] fun m => m :=
  fun _ => rfl

theorem drawsAll_cons {i : Instr} {is : List Instr} {f g : Memory → Memory}
    (hi : DrawsBy i f) (his : DrawsAll is g) : DrawsAll (i :: is) fun m => g (f m) :=
  fun s => (execAll_cons_of_next (hi.exec_eq s) is).trans (his _)

theorem drawsAll_append {is js : List Instr} {f g : Memory → Memory} (his : DrawsAll is f) (hjs : DrawsAll js g) :
    DrawsAll (is ++ js) fun m => g (f m) :=
  fun s => (execAll_append_of_next (his s) js).trans (hjs _)

/-! ### The parts of the picture -/

/-- The operation that draws the square of a cell, with the numerals of R150. -/
def squareOp (p : Point) : Instr :=
  .fillRect (BitVec.ofNat 8 (4 * p.x.toNat + 1)) (BitVec.ofNat 8 (9 + 4 * p.y.toNat)) 2 2

/-- The operations of the overlay (R150, step 6). -/
def overlayOps : GameState → List Instr
  | .running => []
  | .gameOver => [.drawText 2 39 textGameOver .standard, .drawText 3 42 textPressOk .standard]
  | .paused => [.drawText 2 51 textPause .standard]

theorem renderOps_eq (s : State) : renderOps s =
    [.clearBuffer, .drawRect 0 8 132 40, .drawNumber 0 0 (s.score.setWidth 32) .standard, squareOp s.food] ++
      s.snake.cells.map squareOp ++ overlayOps s.gameState := by
  rw [renderOps]
  cases s.gameState <;> rfl

theorem coord_ofNat {n : Nat} (h : n < 256) : coord (BitVec.ofNat 8 n) = n := by
  rw [coord, BitVec.toNat_ofNat, Nat.mod_eq_of_lt h]

/-- In the grid the square's corner fits its two operand bytes. -/
theorem drawsBy_squareOp {p : Point} (hp : InGrid p) : DrawsBy (squareOp p) fun m => plotAll m (cellSquare p) := by
  obtain ⟨hx, hy⟩ := hp
  rw [Config.COLS_eq] at hx
  rw [Config.ROWS_eq] at hy
  have hcol : coord (BitVec.ofNat 8 (4 * p.x.toNat + 1)) = ((p.x.toNat * Config.CELL + INSET : Nat) : Int) := by
    rw [coord_ofNat (by omega), Nat.mul_comm]
    rfl
  have hrow : coord (BitVec.ofNat 8 (9 + 4 * p.y.toNat)) =
      ((Config.HUD + p.y.toNat * Config.CELL + INSET : Nat) : Int) := by
    rw [coord_ofNat (by omega), Config.HUD_eq, Config.CELL_eq, INSET]
    congr 1
    omega
  rw [cellSquare, ← hcol, ← hrow]
  exact drawsBy_plotAll _ fun _ => rfl

theorem drawsAll_squareOps {ps : List Point} (hps : ∀ p ∈ ps, InGrid p) :
    DrawsAll (ps.map squareOp) fun m => plotAll m (ps.flatMap cellSquare) := by
  induction ps with
  | nil => exact drawsAll_nil
  | cons p ps ih =>
    obtain ⟨hp, hps⟩ := List.forall_mem_cons.1 hps
    simpa only [List.map_cons, List.flatMap_cons, plotAll_append] using drawsAll_cons (drawsBy_squareOp hp) (ih hps)

theorem drawsBy_drawText (page col : Byte) (text : List Byte) (font : Font) :
    DrawsBy (.drawText page col text font) fun m => drawTextFb page.toNat font m col.toNat text :=
  ⟨fun _ => rfl, fun _ => drawTextFb_wf _ _ _ _⟩

theorem drawsAll_overlayOps (g : GameState) : DrawsAll (overlayOps g) (overlay g) := by
  cases g with
  | running => exact drawsAll_nil
  | paused => exact (drawsAll_cons (drawsBy_drawText 2 51 textPause .standard) drawsAll_nil :)
  | gameOver =>
    exact (drawsAll_cons (drawsBy_drawText 2 39 textGameOver .standard)
      (drawsAll_cons (drawsBy_drawText 3 42 textPressOk .standard) drawsAll_nil) :)

/-- A SCORE widened to 32 bits is no negative number (R150, R69). -/
theorem toInt_setWidth_score (score : Half) : (score.setWidth 32).toInt = score.toNat := by
  have hlt := score.isLt
  have hwide : (score.setWidth 32).toNat = score.toNat := BitVec.toNat_setWidth_of_le (by decide)
  rw [BitVec.toInt_eq_toNat_of_lt (by omega), hwide]

theorem drawsBy_drawNumber_score (score : Half) : DrawsBy (.drawNumber 0 0 (score.setWidth 32) .standard)
    fun m => drawTextFb 0 .standard m 0 (dec score.toNat) := by
  rw [← toInt_setWidth_score]
  exact ⟨fun _ => rfl, fun _ => drawTextFb_wf _ _ _ _⟩

/-- The border that R150 draws around the grid. -/
theorem drawsBy_drawRect_border : DrawsBy (.drawRect 0 8 132 40) fun m => plotAll m
    (rectPoints 0 Config.HUD (Config.COLS * Config.CELL : Nat) (Config.ROWS * Config.CELL : Nat)) :=
  drawsBy_plotAll _ fun _ => rfl

theorem drawsBy_clearBuffer : DrawsBy .clearBuffer fun _ => clearedFb :=
  ⟨fun _ => rfl, fun _ _ => clearedFb_wf⟩

/-! ### Statements on render -/

/-- The expansion draws the picture of `renderFb`, part after part. -/
theorem drawsAll_renderOps {s : State} (hfood : InGrid s.food) (hbody : ∀ p ∈ s.snake.cells, InGrid p) :
    DrawsAll (renderOps s) fun _ => renderFb s.gameState s.score s.food s.snake.cells := by
  have hfront := drawsAll_cons drawsBy_clearBuffer <|
    drawsAll_cons drawsBy_drawRect_border <| drawsAll_cons (drawsBy_drawNumber_score s.score) <|
    drawsAll_cons (drawsBy_squareOp hfood) drawsAll_nil
  have hall := drawsAll_append (drawsAll_append hfront (drawsAll_squareOps hbody)) (drawsAll_overlayOps s.gameState)
  simpa only [renderOps_eq, renderFb, plotAll_append] using hall

/-- Settles O45: the parts drawn in sequence are the picture of `renderFb`. -/
theorem renderIsItsExpansion : Obligations.RenderIsItsExpansion :=
  fun _ hfood hbody => ⟨rfl, _, rfl, rfl, drawsAll_renderOps hfood hbody _⟩

/-- Settles O46: `renderFb` reads the four registers and starts from a cleared buffer. -/
theorem renderIgnoresTheOldPicture : Obligations.RenderIgnoresTheOldPicture := by
  intro s s' hstate hscore hfood hsnake
  refine ⟨renderState s, renderState s', rfl, rfl, ?_⟩
  rw [renderState_fb, renderState_fb, hstate, hscore, hfood, hsnake]

end Sys2Proof.Machine
end

section
/-! The proofs of the statements on `flush` and the loop iteration (45_loop_flush.md R160 to R165). What a loop iteration
comes to is said once, from the state after its two port reads: render and flush from there, after a tick or without one,
or the refusal of the tick. -/

namespace Sys2Proof.Machine

/-! ### The data bytes of `flush` (R164) -/

theorem dataBytes_append (cs ds : List TransportCall) : dataBytes (cs ++ ds) = dataBytes cs ++ dataBytes ds := by
  simp [dataBytes, wireBytes]

theorem dataBytes_flatMap {α : Type} (ps : List α) (f : α → List TransportCall) :
    dataBytes (ps.flatMap f) = ps.flatMap fun p => dataBytes (f p) := by
  induction ps with
  | nil => rfl
  | cons p ps ih => rw [List.flatMap_cons, dataBytes_append, ih, List.flatMap_cons]

/-- A command carries no data byte. -/
theorem dataBytes_sendCommand (bs : List Byte) : dataBytes (bs.map .sendCommand) = [] := by
  induction bs with
  | nil => rfl
  | cons b bs ih => exact ih

theorem dataBytes_sendDataBlock (bs : List Byte) : dataBytes [.sendDataBlock bs] = bs := by
  have hdata : (bs.map fun b => (true, b)).filter (fun p => p.1) = bs.map fun b => (true, b) :=
    List.filter_eq_self.2 (by simp)
  simp [dataBytes, wireBytes, TransportCall.wire, hdata]

/-- The pages are rows of 132 bytes, so `flush` sends the bytes in address order (R41, R164). -/
theorem dataBytes_flushCalls (m : Memory) : dataBytes (flushCalls m) = (List.range 792).map (readByte m) := by
  have hpage : ∀ p : Fin 6, dataBytes ((Config.addrCmds p).map .sendCommand ++ [.sendDataBlock (pageBytes m p.val)]) =
      pageBytes m p.val := by
    intro p
    rw [dataBytes_append, dataBytes_sendCommand, dataBytes_sendDataBlock, List.nil_append]
  have haddr : ∀ n, fbAddr (n / 132) (n % 132) = n := fun n => Nat.div_add_mod' n 132
  calc dataBytes (flushCalls m)
      = (List.finRange 6).flatMap fun p => pageBytes m p.val := by simp only [flushCalls, dataBytes_flatMap, hpage]
    _ = (List.range 6).flatMap fun p => (List.range 132).map fun x => readByte m (fbAddr p x) := rfl
    _ = (List.range (6 * 132)).map fun n => readByte m (fbAddr (n / 132) (n % 132)) :=
      flatMap_rows_eq_map_range (w := 132) (fun x p => readByte m (fbAddr p x)) (by decide) 6
    _ = (List.range 792).map (readByte m) := by simp only [haddr, Nat.reduceMul]

/-- Settles O47: the calls of `flush` are `flushCalls`. -/
theorem flushSendsTheWholeBuffer : Obligations.FlushSendsTheWholeBuffer :=
  fun s => ⟨rfl, flushCalls s.fb, rfl, rfl, dataBytes_flushCalls s.fb⟩

/-! ### What a loop iteration comes to (R160 to R162) -/

/-- The state after the key answered is polled (R161). -/
def afterPoll (s : State) : State :=
  pollKey (keyOfCode ((s.keyPort.answer Config.keyRead 0).setWidth 8)) { s with keyPort := s.keyPort.after 1 }

/-- The state in which a loop iteration makes its tick test: the Clock has been read too (R162). -/
def afterReads (s : State) : State :=
  { afterPoll s with clockPort := (afterPoll s).clockPort.after 1 }

/-- A poll, even one that restarts the game, writes no register that is not the game's. -/
theorem afterPoll_onlyGame (s : State) : OnlyGame { s with keyPort := s.keyPort.after 1 } (afterPoll s) :=
  pollKey_onlyGame _ _

theorem afterReads_keyPort (s : State) : (afterReads s).keyPort = s.keyPort.after 1 :=
  (afterPoll_onlyGame s).keyPort

theorem afterReads_clockPort (s : State) : (afterReads s).clockPort = s.clockPort.after 1 :=
  congrArg (Port.after · 1) (afterPoll_onlyGame s).clockPort

theorem afterReads_transport (s : State) : (afterReads s).transport = s.transport :=
  (afterPoll_onlyGame s).transport

/-- A poll keeps SCORE, or restarts the game and clears it. -/
theorem afterReads_score (s : State) : (afterReads s).score = s.score ∨ (afterReads s).score = 0 := by
  unfold afterReads afterPoll
  rcases pollKey_cases (keyOfCode ((s.keyPort.answer Config.keyRead 0).setWidth 8))
    { s with keyPort := s.keyPort.after 1 } with ⟨_, _, he⟩ | ⟨g, he⟩ <;> rw [he]
  · exact .inr rfl
  · exact .inl rfl

/-- A tick neither reads nor writes PHASE. -/
theorem tickState_withPhase (s : State) (p : Phase) :
    tickState { s with phase := p } = { tickState s with phase := p } := by
  rcases tickState_cases s with ⟨hg, h⟩ | ⟨hg, ho, h⟩ | ⟨hg, ho, hf, h⟩ | ⟨hg, ho, hf, h⟩ <;> rw [h]
  · exact tickState_of_not_running hg
  · exact tickState_of_collision hg ho
  · exact tickState_of_move hg ho hf
  · exact tickState_of_eat hg ho hf

theorem inputPhase_eq_afterPoll (s : State) : inputPhase s = { afterPoll s with phase := .step } :=
  inputPhase_eq s

/-- RENDER and FLUSH do not read PHASE, so `t` may hold any. -/
theorem loopPass_of_stepPhase_next {s t : State}
    (h : stepPhase { afterPoll s with phase := .step } = .next { t with phase := .render }) :
    loopPass s = .next (flushPhase (renderPhase t)) := by
  rw [loopPass, inputPhase_eq_afterPoll, h]
  rfl

theorem loopPass_of_stepPhase_refused {s : State} {r : Refusal}
    (h : stepPhase { afterPoll s with phase := .step } = .refused r) : loopPass s = .refused r := by
  rw [loopPass, inputPhase_eq_afterPoll, h]

/-- What a loop iteration can come to: a refused tick, or RENDER and FLUSH after a tick or without one. -/
theorem loopPass_cases {s : State} {now : Word} (hnow : now = s.clockPort.answer Config.clockRead 0) :
    (tickDue now (afterReads s).lastTick (afterReads s).tickMs = true ∧
        scoreOverflow { afterReads s with lastTick := now } = true ∧ loopPass s = .refused .scoreOverflow) ∨
      (tickDue now (afterReads s).lastTick (afterReads s).tickMs = true ∧
        scoreOverflow { afterReads s with lastTick := now } = false ∧
        loopPass s = .next (flushPhase (renderPhase (tickState { afterReads s with lastTick := now })))) ∨
      (tickDue now (afterReads s).lastTick (afterReads s).tickMs = false ∧
        loopPass s = .next (flushPhase (renderPhase (afterReads s)))) := by
  have hnow' : now = (afterPoll s).clockPort.answer Config.clockRead 0 :=
    hnow.trans (congrArg (Port.answer Config.clockRead · 0) (afterPoll_onlyGame s).clockPort.symm)
  subst hnow'
  rcases stepPhase_cases { afterPoll s with phase := .step } with ⟨hd, ho, he⟩ | ⟨hd, ho, he⟩ | ⟨hd, he⟩
  · exact .inl ⟨hd, ho, loopPass_of_stepPhase_refused he⟩
  · have htick := tickState_withPhase
      { afterReads s with lastTick := (afterPoll s).clockPort.answer Config.clockRead 0 } .step
    exact .inr (.inl ⟨hd, ho, loopPass_of_stepPhase_next
      (he.trans (congrArg (fun u : State => Host.Outcome.next { u with phase := .render }) htick))⟩)
  · exact .inr (.inr ⟨hd, loopPass_of_stepPhase_next he⟩)

/-- An iteration that completes ends with RENDER and FLUSH, and up to there it has called KeyInput and the Clock once
each, and the Transport not at all. -/
theorem loopPass_next {s t : State} (h : loopPass s = .next t) :
    ∃ u, t = flushPhase (renderPhase u) ∧
      u.keyPort = s.keyPort.after 1 ∧ u.clockPort = s.clockPort.after 1 ∧ u.transport = s.transport := by
  rcases loopPass_cases (s := s) rfl with ⟨_, _, he⟩ | ⟨_, _, he⟩ | ⟨_, he⟩ <;> rw [he] at h <;> cases h
  · have hticked := tickState_onlyGame { afterReads s with lastTick := s.clockPort.answer Config.clockRead 0 }
    exact ⟨_, rfl, hticked.keyPort.trans (afterReads_keyPort s), hticked.clockPort.trans (afterReads_clockPort s),
      hticked.transport.trans (afterReads_transport s)⟩
  · exact ⟨_, rfl, afterReads_keyPort s, afterReads_clockPort s, afterReads_transport s⟩

/-! ### Statements on the loop iteration -/

theorem endsAsFrom_of_loopPass {s b : State} (h : loopPass s = .next (flushPhase (renderPhase b))) : endsAsFrom s b :=
  ⟨renderState b, flushState (renderState b), rfl, rfl, h⟩

/-- Settles O48: `loopPass_cases`, whose test on SCORE is the one that refuses the tick. -/
theorem loopIterationRunsItsFourPhases : Obligations.LoopIterationRunsItsFourPhases := by
  rintro s _ now rfl hnow
  refine ⟨rfl, afterPoll s, afterReads s, rfl, rfl, ?_⟩
  have hscore : s.score ≠ 65535 → (afterReads s).score ≠ 65535 := by
    intro h
    rcases afterReads_score s with he | he <;> rw [he]
    · exact h
    · decide
  have hdue := tickDue_iff now (afterReads s).lastTick (afterReads s).tickMs
  rcases loopPass_cases hnow with ⟨hd, ho, he⟩ | ⟨hd, ho, he⟩ | ⟨hd, he⟩ <;> rw [hd] at hdue
  · have hrefused := exec_tick_refused ho
    refine ⟨fun hlt => absurd (hdue.1 rfl) hlt.not_ge, fun _ => ⟨fun hs => ?_, fun c hc => ?_, fun r hr => ?_⟩⟩
    · exact absurd ((scoreOverflow_iff _).1 ho).1 (hscore hs)
    · cases hrefused.symm.trans hc
    · cases hrefused.symm.trans hr
      exact he
  · have hnext := exec_tick_next_iff.2 ⟨ho, rfl⟩
    refine ⟨fun hlt => absurd (hdue.1 rfl) hlt.not_ge, fun _ => ⟨fun _ => ⟨_, hnext⟩, fun c hc => ?_, fun r hr => ?_⟩⟩
    · obtain ⟨_, rfl⟩ := exec_tick_next_iff.1 hc
      exact endsAsFrom_of_loopPass he
    · cases hnext.symm.trans hr
  · exact ⟨fun _ => endsAsFrom_of_loopPass he, fun hge => absurd (hdue.2 hge) Bool.false_ne_true⟩

/-- Settles O49: RENDER and FLUSH read no port. -/
theorem loopIterationReadsEachInputOnce : Obligations.LoopIterationReadsEachInputOnce := by
  intro s t h
  obtain ⟨u, rfl, hkey, hclock, _⟩ := loopPass_next h
  exact ⟨hkey, hclock⟩

/-- Settles O50, by the kinds of operations. -/
theorem onlyFlushCallsTheTransport : Obligations.OnlyFlushCallsTheTransport := by
  intro i s t h
  have of_kept : t.transport = s.transport → (∃ cs, t.transport = s.transport ++ cs) ∧
      (i ≠ .flush → i ≠ .loopIteration → t.transport = s.transport) :=
    fun hkept => ⟨⟨[], by rw [hkept, List.append_nil]⟩, fun _ _ => hkept⟩
  cases opKind i with
  | draws f _ hf => exact of_kept (by rw [hf.next_eq h])
  | getPixel | gameReset | placeFood | render =>
    cases h
    exact of_kept (by simp)
  | pollInput key =>
    cases h
    exact of_kept (pollKey_onlyGame _ s).transport
  | tick =>
    obtain ⟨_, rfl⟩ := exec_tick_next_iff.1 h
    exact of_kept (tickState_onlyGame s).transport
  | flush =>
    cases h
    exact ⟨⟨flushCalls s.fb, rfl⟩, fun hne => absurd rfl hne⟩
  | loopIteration =>
    obtain ⟨u, rfl, _, _, hkept⟩ := loopPass_next h
    exact ⟨⟨flushCalls (renderState u).fb, congrArg (· ++ flushCalls (renderState u).fb) hkept⟩,
      fun _ hne => absurd rfl hne⟩

end Sys2Proof.Machine
end

section
/-! The proof of the statement on completion (R88, R130, R170): a tick is refused only where it eats at SCORE = 65535 (U7),
and a loop iteration is refused only by its tick. -/

namespace Sys2Proof.Machine

/-- A tick outside Running does not eat, and below SCORE = 65535 an eating tick has a meaning. -/
theorem exec_tick_of_score_ne_or_not_running {s : State} (h : s.score ≠ 65535 ∨ s.gameState ≠ .running) :
    exec .tick s = .next (tickState s) := by
  rcases h with hscore | hrun
  · exact exec_tick_next_iff.2 ⟨scoreOverflow_of_score_ne hscore, rfl⟩
  · exact exec_tick_of_not_eating fun ⟨hg, _, _⟩ => hrun hg

/-- Polling a key in a lost game restarts it, which clears SCORE, or leaves it lost (R137, R146). -/
theorem pollKey_of_gameOver (k : Key) {s : State} (hg : s.gameState = .gameOver) :
    (pollKey k s).score = 0 ∨ (pollKey k s).gameState = .gameOver := by
  by_cases he : okEdge s.okHeld k = true
  · obtain ⟨rfl, hheld⟩ := okEdge_iff.1 he
    rw [pollKey_ok_gameOver hg hheld]
    exact .inl rfl
  · rw [pollKey_gameState, if_neg he]
    exact .inr hg

/-- Where a loop iteration makes its tick test, SCORE is not 65535 or the game is not Running, if SCORE was not 65535 or the
game was lost before its poll: a lost game runs again only through a restart. -/
theorem afterReads_score_ne_or_not_running {s : State} (h : s.score ≠ 65535 ∨ s.gameState = .gameOver) :
    (afterReads s).score ≠ 65535 ∨ (afterReads s).gameState ≠ .running := by
  rcases h with hscore | hg
  · left
    rcases afterReads_score s with he | he <;> rw [he]
    · exact hscore
    · decide
  · have hpoll := pollKey_of_gameOver (keyOfCode ((s.keyPort.answer Config.keyRead 0).setWidth 8))
      (s := { s with keyPort := s.keyPort.after 1 }) hg
    rcases hpoll with he | he
    · exact .inl fun hfull => absurd (he.symm.trans hfull) (by decide)
    · exact .inr fun hrun => absurd (he.symm.trans hrun) (by decide)

/-- A loop iteration whose tick cannot be refused completes. -/
theorem loopPass_completes {s : State} (h : (afterReads s).score ≠ 65535 ∨ (afterReads s).gameState ≠ .running) :
    ∃ t, loopPass s = .next t := by
  rcases loopPass_cases (s := s) rfl with ⟨_, ho, _⟩ | ⟨_, _, he⟩ | ⟨_, he⟩
  · obtain ⟨hfull, hrun, _, _⟩ := (scoreOverflow_iff _).1 ho
    exact absurd hfull (h.resolve_right fun hne => hne hrun)
  · exact ⟨_, he⟩
  · exact ⟨_, he⟩

/-- Settles O10, by the kinds of operations; only a tick, alone or inside a loop iteration, can be refused. -/
theorem everyOperationCompletes : Obligations.EveryOperationCompletes := by
  refine ⟨fun i s htick hloop => ?_, fun s h => ⟨_, exec_tick_of_score_ne_or_not_running h⟩,
    fun s h => loopPass_completes (afterReads_score_ne_or_not_running h)⟩
  cases opKind i with
  | draws f _ hf => exact ⟨_, hf.exec_eq s⟩
  | getPixel x y => exact ⟨_, exec_getPixel x y s⟩
  | gameReset | placeFood | pollInput | render | flush => exact ⟨_, rfl⟩
  | tick => exact absurd rfl htick
  | loopIteration => exact absurd rfl hloop

end Sys2Proof.Machine
end

section
/-! The proof of the statement on the power-on sequence (R190): what it makes of any state, registers and ports. -/

namespace Sys2Proof.Machine

/-- The power-on sequence gives every register from PHASE to RESULT but FOOD and LAST_TICK its reset value, takes these two
from the Rnd and Clock ports, and leaves the buffer, the trace, the stream and KeyInput (R32, R190). -/
theorem powerOn_eq (s : State) : powerOn s = { State.reset with
    food := (chooseFood startSnake.cells s.rndPort).1
    lastTick := (s.clockPort.next Config.clockRead).1
    fb := s.fb
    transport := s.transport
    stream := s.stream
    keyPort := s.keyPort
    clockPort := (s.clockPort.next Config.clockRead).2
    rndPort := (chooseFood startSnake.cells s.rndPort).2 } := rfl

/-- Settles O54: fresh ports answer the sequence with the FOOD and LAST_TICK of reset, and what it leaves is empty. -/
theorem resetIsThePowerOnSequence : Obligations.ResetIsThePowerOnSequence := by
  intro s hfb htransport hstream hkey hclock hrnd
  rw [powerOn_eq, hfb, htransport, hstream, hkey, hclock, hrnd]
  rfl

end Sys2Proof.Machine
end
